-- ==== Sys2Proof/Word.lean ====
section
/-! DEFINITION. The words and bit sequences of LFSR_CORE (rules R11, R14, R70, R71). -/

namespace Sys2Proof

/-- A bit (R11): `false` is 0 and `true` is 1, so the XOR of rule R12 is `Bool.xor`. -/
abbrev Bit := Bool

/-- A bit sequence (R11): the head of the list is index 0, the leftmost bit and the first one loaded (R51). -/
abbrev Bits := List Bit

/-- An 8-bit value: a colour channel, a mask byte, an OP or a CODE field. -/
abbrev Byte := BitVec 8

/-- A 24-bit field: IMM of a command word, DATA of a response word, the tap register. -/
abbrev Imm := BitVec 24

/-- A command word (R70): OP in bits 31..24, IMM in bits 23..0. -/
abbrev CommandWord := BitVec 32

/-- A response word (R71): CODE in bits 31..24, DATA in bits 23..0. -/
abbrev ResponseWord := BitVec 32

end Sys2Proof
end

