-- ==== Sys2Proof/Machine/Operands.lean ====
section
/-! DEFINITION. The fields of a command word (rules R14, R70, R73) and the values a response's DATA field carries (rules R14,
R53, R55). -/

namespace Sys2Proof.Machine

/-- OP = bits 31..24 (R70). -/
def opField (w : CommandWord) : Byte := w.extractLsb' 24 8

/-- IMM = bits 23..0 (R70): the operand of format U, with no extension, scaling or shift (R73). -/
def immField (w : CommandWord) : Imm := w.extractLsb' 0 24

/-- The operand of format B: IMM[0] (R72, R73). -/
def bitField (w : CommandWord) : Bit := w.getLsbD 0

/-- The channel R of format P: IMM[23:16] (R72, R53). -/
def redField (w : CommandWord) : Byte := w.extractLsb' 16 8

/-- The channel G of format P: IMM[15:8] (R72, R53). -/
def greenField (w : CommandWord) : Byte := w.extractLsb' 8 8

/-- The channel B of format P: IMM[7:0] (R72, R53). -/
def blueField (w : CommandWord) : Byte := w.extractLsb' 0 8

/-- `zext_24` of a natural number (R14). The spec uses it below 2^24 only, and every length of a state that meets `Block.Wf` and every
capacity lies there. -/
def zext24 (n : Nat) : Imm := BitVec.ofNat 24 n

/-- A bit, zero-extended (R55). -/
def dataOfBit (b : Bit) : Imm := zext24 b.toNat

/-- The format B operand field: IMM[23:1] = 0 and IMM[0] = b (R72). -/
def immOfBit (b : Bit) : Imm := zext24 b.toNat

/-- A pixel in a 24-bit field: R in 23..16, G in 15..8, B in 7..0 (R53). -/
def pixelField (r g b : Byte) : Imm := r ++ g ++ b

end Sys2Proof.Machine
end

