-- ==== Sys2Proof/Syntax.lean ====
section
/-! DEFINITION. The 21 commands of LFSR-CMD version 1, one constructor for each row of spec/opcode_table.json (rule R74). -/

namespace Sys2Proof

/-- A command with its operands (R72, R73). The operand types hold exactly the values the encoding can carry: a bit, an unsigned
24-bit integer, three 8-bit channels. -/
inductive Instr where
  /-- R190, OP 0x00, format N. -/
  | nop
  /-- R191, OP 0x01, format N. -/
  | clr
  /-- R107, OP 0x10, format N. -/
  | sclr
  /-- R108, OP 0x11, format B. -/
  | spush (b : Bit)
  /-- R109, OP 0x12, format U: the operand is a tap. -/
  | stap (u : Imm)
  /-- R110, OP 0x13, format N. -/
  | step
  /-- R111, OP 0x14, format N. -/
  | schk
  /-- R112, OP 0x15, format U: the operand is an index. -/
  | srd (i : Imm)
  /-- R113, OP 0x16, format N. -/
  | slen
  /-- R114, OP 0x17, format N. -/
  | taprd
  /-- R131, OP 0x20, format U: the operand is a step count. -/
  | gen (n : Imm)
  /-- R132, OP 0x21, format N. -/
  | kclr
  /-- R133, OP 0x22, format B. -/
  | kpush (b : Bit)
  /-- R134, OP 0x23, format U: the operand is an index. -/
  | krd (i : Imm)
  /-- R135, OP 0x24, format N. -/
  | klen
  /-- R153, OP 0x30, format N. -/
  | xclr
  /-- R154, OP 0x31, format B. -/
  | xpush (b : Bit)
  /-- R155, OP 0x32, format N. -/
  | xorc
  /-- R156, OP 0x33, format U: the operand is an index. -/
  | yrd (i : Imm)
  /-- R157, OP 0x34, format N. -/
  | ylen
  /-- R173, OP 0x40, format P: the operands are the channels R, G and B. -/
  | maskpx (r g b : Byte)
deriving DecidableEq, Repr

/-- The mnemonic of rule R74's table. -/
def Instr.mnemonic : Instr → String
  | .nop => "NOP"
  | .clr => "CLR"
  | .sclr => "SCLR"
  | .spush _ => "SPUSH"
  | .stap _ => "STAP"
  | .step => "STEP"
  | .schk => "SCHK"
  | .srd _ => "SRD"
  | .slen => "SLEN"
  | .taprd => "TAPRD"
  | .gen _ => "GEN"
  | .kclr => "KCLR"
  | .kpush _ => "KPUSH"
  | .krd _ => "KRD"
  | .klen => "KLEN"
  | .xclr => "XCLR"
  | .xpush _ => "XPUSH"
  | .xorc => "XORC"
  | .yrd _ => "YRD"
  | .ylen => "YLEN"
  | .maskpx _ _ _ => "MASKPX"

end Sys2Proof
end

