-- ==== Sys2Proof/Decode.lean ====
section
/-! DEFINITION. The opcode map, the decoder and the encoder (rules R70 to R78). -/

namespace Sys2Proof

open Sys2Proof.Machine

/-- A row of rule R74's table: a word w selects the row when `w AND mask = pattern` (the table's "match"). -/
structure OpRow where
  op : Byte
  mnemonic : String
  pattern : CommandWord
  mask : CommandWord
deriving DecidableEq, Repr

/-- Rule R74, the control and seed rows. -/
def opcodeMapLow : List OpRow :=
  [ ⟨0x00, "NOP", 0x00000000, 0xFFFFFFFF⟩,
    ⟨0x01, "CLR", 0x01000000, 0xFFFFFFFF⟩,
    ⟨0x10, "SCLR", 0x10000000, 0xFFFFFFFF⟩,
    ⟨0x11, "SPUSH", 0x11000000, 0xFFFFFFFE⟩,
    ⟨0x12, "STAP", 0x12000000, 0xFF000000⟩,
    ⟨0x13, "STEP", 0x13000000, 0xFFFFFFFF⟩,
    ⟨0x14, "SCHK", 0x14000000, 0xFFFFFFFF⟩,
    ⟨0x15, "SRD", 0x15000000, 0xFF000000⟩,
    ⟨0x16, "SLEN", 0x16000000, 0xFFFFFFFF⟩,
    ⟨0x17, "TAPRD", 0x17000000, 0xFFFFFFFF⟩ ]

/-- Rule R74, the keystream, combiner and pixel rows. -/
def opcodeMapHigh : List OpRow :=
  [ ⟨0x20, "GEN", 0x20000000, 0xFF000000⟩,
    ⟨0x21, "KCLR", 0x21000000, 0xFFFFFFFF⟩,
    ⟨0x22, "KPUSH", 0x22000000, 0xFFFFFFFE⟩,
    ⟨0x23, "KRD", 0x23000000, 0xFF000000⟩,
    ⟨0x24, "KLEN", 0x24000000, 0xFFFFFFFF⟩,
    ⟨0x30, "XCLR", 0x30000000, 0xFFFFFFFF⟩,
    ⟨0x31, "XPUSH", 0x31000000, 0xFFFFFFFE⟩,
    ⟨0x32, "XORC", 0x32000000, 0xFFFFFFFF⟩,
    ⟨0x33, "YRD", 0x33000000, 0xFF000000⟩,
    ⟨0x34, "YLEN", 0x34000000, 0xFFFFFFFF⟩,
    ⟨0x40, "MASKPX", 0x40000000, 0xFF000000⟩ ]

/-- Rule R74's table, in its order. -/
def opcodeMap : List OpRow := opcodeMapLow ++ opcodeMapHigh

/-- Why a word is no command (R76). Both answers are the error IllegalCommand. -/
inductive IllegalWord where
  /-- OP is not in the table of rule R74. -/
  | reservedOp
  /-- OP is listed and a "must be 0" bit of its format is 1. -/
  | mustBeZero
deriving DecidableEq, Repr

/-- Format N: IMM must be 0 (R72). -/
def formatN (w : CommandWord) (i : Instr) : Except IllegalWord Instr :=
  if immField w = 0 then .ok i else .error .mustBeZero

/-- Format B: IMM[23:1] must be 0, and the operand is IMM[0] (R72). -/
def formatB (w : CommandWord) (i : Bit → Instr) : Except IllegalWord Instr :=
  if immField w >>> 1 = 0 then .ok (i (bitField w)) else .error .mustBeZero

/-- Format U: the operand is IMM (R72). -/
def formatU (w : CommandWord) (i : Imm → Instr) : Except IllegalWord Instr :=
  .ok (i (immField w))

/-- Format P: the operands are the three channels (R72). -/
def formatP (w : CommandWord) (i : Byte → Byte → Byte → Instr) : Except IllegalWord Instr :=
  .ok (i (redField w) (greenField w) (blueField w))

/-- The command a word selects (R75): total, and every other word is rejected by name. -/
def decode (w : CommandWord) : Except IllegalWord Instr :=
  match (opField w).toNat with
  | 0x00 => formatN w .nop
  | 0x01 => formatN w .clr
  | 0x10 => formatN w .sclr
  | 0x11 => formatB w .spush
  | 0x12 => formatU w .stap
  | 0x13 => formatN w .step
  | 0x14 => formatN w .schk
  | 0x15 => formatU w .srd
  | 0x16 => formatN w .slen
  | 0x17 => formatN w .taprd
  | 0x20 => formatU w .gen
  | 0x21 => formatN w .kclr
  | 0x22 => formatB w .kpush
  | 0x23 => formatU w .krd
  | 0x24 => formatN w .klen
  | 0x30 => formatN w .xclr
  | 0x31 => formatB w .xpush
  | 0x32 => formatN w .xorc
  | 0x33 => formatU w .yrd
  | 0x34 => formatN w .ylen
  | 0x40 => formatP w .maskpx
  | _ => .error .reservedOp

/-- A command word from its OP and IMM fields (R70). -/
def commandWord (op : Byte) (imm : Imm) : CommandWord := op ++ imm

/-- The word of a command (R70, R72, R74). -/
def encode : Instr → CommandWord
  | .nop => commandWord 0x00 0
  | .clr => commandWord 0x01 0
  | .sclr => commandWord 0x10 0
  | .spush b => commandWord 0x11 (immOfBit b)
  | .stap u => commandWord 0x12 u
  | .step => commandWord 0x13 0
  | .schk => commandWord 0x14 0
  | .srd i => commandWord 0x15 i
  | .slen => commandWord 0x16 0
  | .taprd => commandWord 0x17 0
  | .gen n => commandWord 0x20 n
  | .kclr => commandWord 0x21 0
  | .kpush b => commandWord 0x22 (immOfBit b)
  | .krd i => commandWord 0x23 i
  | .klen => commandWord 0x24 0
  | .xclr => commandWord 0x30 0
  | .xpush b => commandWord 0x31 (immOfBit b)
  | .xorc => commandWord 0x32 0
  | .yrd i => commandWord 0x33 i
  | .ylen => commandWord 0x34 0
  | .maskpx r g b => commandWord 0x40 (pixelField r g b)

/-- The command word whose bits are `w` below `nbits` and 0 above, numbered as spec/opcode_table.json numbers them. A command is one
32-bit word that the host issues whole, so no byte order enters (R53, R78). -/
def tableWord (nbits w : Nat) : CommandWord := BitVec.ofNat 32 (w % 2 ^ nbits)

/-- What the decoder reads from an opcode-table word. -/
def decodeTableWord (nbits w : Nat) : Option Instr :=
  match decode (tableWord nbits w) with
  | .ok i => some i
  | .error _ => none

end Sys2Proof
end

