-- ==== Sys2Proof/Machine/Flags.lean ====
section
/-! DEFINITION. LFSR_CORE has no flags and no status register (rule R28): the outcome of a command is carried only by its response
word. This file holds that word (rule R71) and the error codes (rule R201). -/

namespace Sys2Proof.Machine

/-- The errors of rule R201. -/
inductive Error where
  /-- The tap is not below the seed width (R202). -/
  | invalidTap
  /-- KS_VALID = 0 (R203). -/
  | keystreamNotFound
  /-- Never raised by the block: the code is reserved for the host (R204). -/
  | imageNotFound
  /-- The seed is empty (R205). -/
  | malformedSeed
  /-- LMAX, KMAX or XMAX would be exceeded (R206). -/
  | capacityExceeded
  /-- The word is no command (R207). -/
  | illegalCommand
  /-- The index is not below the length of the sequence (R208). -/
  | indexOutOfRange
deriving DecidableEq, Repr

/-- CODE of an error (R201). -/
def Error.code : Error → Byte
  | .invalidTap => 0x01
  | .keystreamNotFound => 0x02
  | .imageNotFound => 0x03
  | .malformedSeed => 0x04
  | .capacityExceeded => 0x05
  | .illegalCommand => 0x06
  | .indexOutOfRange => 0x07

/-- A response word from its CODE and DATA fields (R71). -/
def responseWord (code : Byte) (data : Imm) : ResponseWord := code ++ data

/-- CODE = bits 31..24 of a response word (R71). -/
def codeField (r : ResponseWord) : Byte := r.extractLsb' 24 8

/-- DATA = bits 23..0 of a response word (R71). -/
def dataField (r : ResponseWord) : Imm := r.extractLsb' 0 24

end Sys2Proof.Machine
end

