-- ==== Sys2Proof/Config.lean ====
section
/-! DEFINITION. What one implementation of LFSR_CORE fixes: the parameters of rules R6 to R9, as values nothing in Lean can
evaluate, and the stub parameter set the spec's test vectors use. -/

namespace Sys2Proof

/-- `Params = (LMAX, KMAX, XMAX, MASK_FN)` of rule R18. MASK_FN is total (R9); only its values below 2^LMAX are ever used. -/
structure Params where
  /-- LMAX (R6): the capacity of the seed register in bits. -/
  lmax : Nat
  /-- KMAX (R7): the capacity of the keystream store in bits. -/
  kmax : Nat
  /-- XMAX (R8): the capacity of the combiner's input buffer in bits. -/
  xmax : Nat
  /-- MASK_FN (R9): the mask byte as a function of seedVal alone. -/
  maskFn : Nat → Byte

/-- LMAX less one, in 0 .. 2^24 − 2. OPEN in the spec (R6, decision D5): no value is chosen (assumption log 1). -/
opaque Config.lmaxLessOne : Fin 16777215

/-- KMAX, in 0 .. 2^24 − 1. OPEN in the spec (R7, decision D5): no value is chosen (assumption log 1). -/
opaque Config.kmax : BitVec 24

/-- XMAX, in 0 .. 2^24 − 1. OPEN in the spec (R8, decision D5): no value is chosen (assumption log 1). -/
opaque Config.xmax : BitVec 24

/-- MASK_FN. OPEN in the spec (R9, decision D6): no value is chosen (assumption log 2). -/
opaque Config.maskFn : Nat → Byte

/-- The feedback of a seed and tap outside `1 ≤ L` and `t < L`, where rule R100 leaves it undefined: a free value. No command
computes it there, since rule R102 is checked first (assumption log 3). -/
opaque Config.undefinedFeedback : Bits → Nat → Bit

/-- The parameters of the implementation that `exec` and `step` model. -/
def Config.params : Params where
  lmax := Config.lmaxLessOne.val + 1
  kmax := Config.kmax.toNat
  xmax := Config.xmax.toNat
  maskFn := Config.maskFn

/-- MASK_FN_TEST (R10): a wiring stub for test vectors, never the wire contract. -/
def Config.maskFnTest (v : Nat) : Byte := BitVec.ofNat 8 v

/-- The parameter set of the spec's test vectors (95_test_vectors.md): used by tests only. -/
def Params.test : Params where
  lmax := 8
  kmax := 16
  xmax := 8
  maskFn := Config.maskFnTest

end Sys2Proof
end

