-- ==== Sys2Proof/Machine/State.lean ====
section
/-! DEFINITION. The state of LFSR_CORE (rule R20), the host's command channel (rules R18, R55, R59), and reset (rules R31, R230).
LFSR_CORE has no byte-addressed memory, no program counter, no register file and no status register (rules R27, R28, R50). -/

namespace Sys2Proof.Machine

/-- The architectural state (R20): these six components and nothing else. -/
structure Block where
  /-- S, the seed (R21): its width is its length, and the empty list means that no seed is loaded. -/
  seed : Bits
  /-- TAP, a 24-bit unsigned integer (R23): stored as given and checked at use. -/
  tap : Imm
  /-- KS_VALID (R24): true when the keystream store exists. -/
  ksValid : Bit
  /-- KS, the contents of the keystream store (R24). -/
  ks : Bits
  /-- X, the combiner's input bit string (R25). -/
  x : Bits
  /-- Y, the output bit string of the last successful XORC (R26). -/
  y : Bits
deriving DecidableEq, Repr

/-- Every component at its reset value (R31). -/
def Block.reset : Block where
  seed := []
  tap := 0
  ksValid := false
  ks := []
  x := []
  y := []

/-- What the outside world gives the block: a command word (R55), or the power-on or external reset, which rule R232 lets a model
treat as a command of its own that yields no response. -/
inductive Input where
  | command (w : CommandWord)
  | reset
deriving DecidableEq, Repr

/-- The machine and its host channel. `pending` and `responses` are the MODEL's own fields, not the spec's: they hold the two ends
of the channel of rule R55 as data (assumption log 4). -/
structure State where
  /-- The architectural state (R20). -/
  block : Block
  /-- What the host has issued and the block has not yet accepted, first in order first (R59). -/
  pending : List Input
  /-- The response words delivered to the host so far, oldest first (R19, R71). No command reads them (R28). -/
  responses : List ResponseWord
deriving DecidableEq, Repr

/-- The machine after power-on reset (R31, R230): nothing issued, nothing answered. -/
def State.reset : State where
  block := Block.reset
  pending := []
  responses := []

/-- LFSR_CORE has no fault: "The block never stops on its own, never hangs on a command" (R19), and an error is an ordinary response
(R200). The type has no constructor. -/
inductive Fault where
deriving DecidableEq, Repr

/-- Why `exec` gives no meaning. -/
inductive Refusal where
  /-- Raised by an arm of `exec` whose instruction has no meaning yet: safe. No arm raises it. -/
  | notModelled (mnemonic : String)
deriving DecidableEq, Repr

end Sys2Proof.Machine
end

