-- ==== Sys2Proof/Machine/Ops.lean ====
section
/-! DEFINITION. The operations the commands share: answering the host and raising an error (rules R16, R200, R209), the reads and
appends on the block's bit sequences (rules R50, R54), the engine functions (rules R100 to R102, R106), and the host channel. -/

namespace Sys2Proof.Machine

/-- How a command ends (R16). -/
inductive Result where
  /-- `respond(data)`: CODE = 0x00, and every write of the command takes effect together (R16, R56). -/
  | respond (block : Block) (data : Imm)
  /-- `raise E(data)`: CODE is the error's, and no state is written (R16, R209). -/
  | raise (e : Error) (data : Imm)
deriving DecidableEq, Repr

/-- The block after a command that started from `before`. -/
def Result.block (before : Block) : Result → Block
  | .respond b _ => b
  | .raise _ _ => before

/-- The response word of a command (R71, R201). -/
def Result.word : Result → ResponseWord
  | .respond _ d => responseWord 0x00 d
  | .raise e d => responseWord e.code d

/-- The command ends: the block is updated in one piece and exactly one response word goes to the host (R55, R56, R71). Raising an
error is this same operation on `Result.raise`: there is no trap, no saved state and no return from one (R200, R213). -/
def State.answer (s : State) (r : Result) : State where
  block := r.block s.block
  pending := s.pending
  responses := s.responses ++ [r.word]

/-- The input the block accepts next, and the machine that has accepted it (R59). -/
def State.takeInput (s : State) : Option (Input × State) :=
  match s.pending with
  | [] => none
  | i :: rest => some (i, { s with pending := rest })

/-- Power-on or external reset: every component takes its reset value and no response is produced (R230, R232). -/
def State.externalReset (s : State) : State := { s with block := Block.reset }

/-- A word that is no command raises IllegalCommand with its OP in DATA (R75, R76, R207). -/
def illegalResult (w : CommandWord) : Result := .raise .illegalCommand (zext24 (opField w).toNat)

/-- Reading one bit of a sequence by index (R50, R55, R208). -/
def readBit (sequence : Bits) (i : Imm) (b : Block) : Result :=
  if h : i.toNat < sequence.length then
    .respond b (dataOfBit sequence[i.toNat])
  else
    .raise .indexOutOfRange (zext24 sequence.length)

/-- Reading the length of a sequence (R55). -/
def readLength (sequence : Bits) (b : Block) : Result := .respond b (zext24 sequence.length)

/-- Appending one bit to a sequence of a given capacity (R50, R206): `updated` is the block with the longer sequence. -/
def pushBit (sequence : Bits) (capacity : Nat) (updated : Block) : Result :=
  if sequence.length = capacity then
    .raise .capacityExceeded (zext24 capacity)
  else
    .respond updated 0

/-- LFSR_feedback_compute (R100). Outside `t < |S|` the spec leaves it undefined, and so is this. -/
def feedback (s : Bits) (t : Nat) : Bit :=
  if h : t < s.length then
    Bool.xor (s[0]'(Nat.lt_of_le_of_lt (Nat.zero_le t) h)) s[t]
  else
    Config.undefinedFeedback s t

/-- LFSR_shift_register step (R101): drop the leftmost bit, append the feedback on the right. -/
def stepSeed (s : Bits) (t : Nat) : Bits := s.drop 1 ++ [feedback s t]

/-- `check_seed_tap(S, TAP)` (R102), then the rest of the command. -/
def checkSeedTap (b : Block) (rest : Result) : Result :=
  if b.seed.length = 0 then
    .raise .malformedSeed 0
  else if b.seed.length ≤ b.tap.toNat then
    .raise .invalidTap b.tap
  else
    rest

/-- KeystreamNotFound when no store exists (R203), then the rest of the command. -/
def checkStore (b : Block) (rest : Result) : Result :=
  if b.ksValid then rest else .raise .keystreamNotFound 0

/-- The trajectory (R106): `trajectory S_0 t k` is S_k. -/
def trajectory (s : Bits) (t : Nat) : Nat → Bits
  | 0 => s
  | k + 1 => stepSeed (trajectory s t k) t

end Sys2Proof.Machine
end

