-- ==== Sys2Proof/Machine/Combiner.lean ====
section
/-! DEFINITION. The bit-string combiner (42_bitstring_combiner.md). -/

namespace Sys2Proof.Machine

/-- Left-zero-padding to the length `m` (R150). -/
def padLeft (s : Bits) (m : Nat) : Bits := List.replicate (m - s.length) false ++ s

/-- `combine(K, X)` (R151): both padded to the longer length, then XORed position by position. -/
def combine (k x : Bits) : Bits :=
  List.zipWith Bool.xor (padLeft k (max k.length x.length)) (padLeft x (max k.length x.length))

/-- R153: clear the input bit string. -/
def resultXclr (_ : Params) (b : Block) : Result := .respond { b with x := [] } 0

/-- R154: append one bit to the input bit string, on the right. -/
def resultXpush (p : Params) (bit : Bit) (b : Block) : Result :=
  pushBit b.x p.xmax { b with x := b.x ++ [bit] }

/-- R155: combine the keystream store with the input bit string (encrypt and decrypt). -/
def resultXorc (_ : Params) (b : Block) : Result :=
  checkStore b (.respond { b with y := combine b.ks b.x } (zext24 (combine b.ks b.x).length))

/-- R156: read one output bit. -/
def resultYrd (_ : Params) (i : Imm) (b : Block) : Result := readBit b.y i b

/-- R157: read the output length. -/
def resultYlen (_ : Params) (b : Block) : Result := readLength b.y b

/-- XCLR (R153). -/
def execXclr (s : State) : Host.Outcome State Fault Refusal := .next (s.answer (resultXclr Config.params s.block))

/-- XPUSH (R154). -/
def execXpush (bit : Bit) (s : State) : Host.Outcome State Fault Refusal :=
  .next (s.answer (resultXpush Config.params bit s.block))

/-- XORC (R155). -/
def execXorc (s : State) : Host.Outcome State Fault Refusal := .next (s.answer (resultXorc Config.params s.block))

/-- YRD (R156). -/
def execYrd (i : Imm) (s : State) : Host.Outcome State Fault Refusal :=
  .next (s.answer (resultYrd Config.params i s.block))

/-- YLEN (R157). -/
def execYlen (s : State) : Host.Outcome State Fault Refusal := .next (s.answer (resultYlen Config.params s.block))

end Sys2Proof.Machine
end

