-- ==== Sys2Proof/Machine/Control.lean ====
section
/-! DEFINITION. The control commands (44_system.md). -/

namespace Sys2Proof.Machine

/-- R190: no operation. -/
def resultNop (_ : Params) (b : Block) : Result := .respond b 0

/-- R191: every component takes its reset value. -/
def resultClr (_ : Params) (_ : Block) : Result := .respond Block.reset 0

/-- NOP (R190). -/
def execNop (s : State) : Host.Outcome State Fault Refusal := .next (s.answer (resultNop Config.params s.block))

/-- CLR (R191). -/
def execClr (s : State) : Host.Outcome State Fault Refusal := .next (s.answer (resultClr Config.params s.block))

end Sys2Proof.Machine
end

