-- ==== Sys2Proof/Machine/Engine.lean ====
section
/-! DEFINITION. The LFSR engine's commands (40_lfsr_engine.md). -/

namespace Sys2Proof.Machine

/-- R107: clear the seed. -/
def resultSclr (_ : Params) (b : Block) : Result := .respond { b with seed := [] } 0

/-- R108: append one bit to the seed, on the right. -/
def resultSpush (p : Params) (bit : Bit) (b : Block) : Result :=
  pushBit b.seed p.lmax { b with seed := b.seed ++ [bit] }

/-- R109: set the tap; any value is stored. -/
def resultStap (_ : Params) (u : Imm) (b : Block) : Result := .respond { b with tap := u } 0

/-- R110: one engine step. -/
def resultStep (_ : Params) (b : Block) : Result :=
  checkSeedTap b
    (.respond { b with seed := stepSeed b.seed b.tap.toNat } (dataOfBit (feedback b.seed b.tap.toNat)))

/-- R111: check the seed and the tap without stepping. -/
def resultSchk (_ : Params) (b : Block) : Result := checkSeedTap b (.respond b 0)

/-- R112: read one seed bit. -/
def resultSrd (_ : Params) (i : Imm) (b : Block) : Result := readBit b.seed i b

/-- R113: read the seed width. -/
def resultSlen (_ : Params) (b : Block) : Result := readLength b.seed b

/-- R114: read the tap. -/
def resultTaprd (_ : Params) (b : Block) : Result := .respond b b.tap

/-- SCLR (R107). -/
def execSclr (s : State) : Host.Outcome State Fault Refusal := .next (s.answer (resultSclr Config.params s.block))

/-- SPUSH (R108). -/
def execSpush (bit : Bit) (s : State) : Host.Outcome State Fault Refusal :=
  .next (s.answer (resultSpush Config.params bit s.block))

/-- STAP (R109). -/
def execStap (u : Imm) (s : State) : Host.Outcome State Fault Refusal :=
  .next (s.answer (resultStap Config.params u s.block))

/-- STEP (R110). -/
def execStep (s : State) : Host.Outcome State Fault Refusal := .next (s.answer (resultStep Config.params s.block))

/-- SCHK (R111). -/
def execSchk (s : State) : Host.Outcome State Fault Refusal := .next (s.answer (resultSchk Config.params s.block))

/-- SRD (R112). -/
def execSrd (i : Imm) (s : State) : Host.Outcome State Fault Refusal :=
  .next (s.answer (resultSrd Config.params i s.block))

/-- SLEN (R113). -/
def execSlen (s : State) : Host.Outcome State Fault Refusal := .next (s.answer (resultSlen Config.params s.block))

/-- TAPRD (R114). -/
def execTaprd (s : State) : Host.Outcome State Fault Refusal := .next (s.answer (resultTaprd Config.params s.block))

end Sys2Proof.Machine
end

