-- ==== Sys2Proof/Machine/Keystream.lean ====
section
/-! DEFINITION. The keystream generator and its store (41_keystream_generator.md). -/

namespace Sys2Proof.Machine

/-- `ks(S_0, t, N) = [b_1, …, b_N]` (R130), where b_k is the feedback of S_(k−1) (R106). -/
def keystream (s : Bits) (t n : Nat) : Bits := (List.range n).map fun k => feedback (trajectory s t k) t

/-- The loop of rule R131 with its locals T and k: `n` steps, each appending its output bit to k. -/
def generateLoop (t : Nat) : Nat → Bits → Bits → Bits × Bits
  | 0, seed, k => (seed, k)
  | n + 1, seed, k => generateLoop t n (stepSeed seed t) (k ++ [feedback seed t])

/-- R131: generate a keystream of N bits into the store; the seed is left at S_N. -/
def resultGen (p : Params) (n : Imm) (b : Block) : Result :=
  checkSeedTap b <|
    if p.kmax < n.toNat then
      .raise .capacityExceeded (zext24 p.kmax)
    else
      .respond
        { b with
          seed := (generateLoop b.tap.toNat n.toNat b.seed []).1
          ks := (generateLoop b.tap.toNat n.toNat b.seed []).2
          ksValid := true }
        0

/-- R132: create an empty keystream store. -/
def resultKclr (_ : Params) (b : Block) : Result := .respond { b with ks := [], ksValid := true } 0

/-- R133: append one bit to the keystream store. -/
def resultKpush (p : Params) (bit : Bit) (b : Block) : Result :=
  checkStore b (pushBit b.ks p.kmax { b with ks := b.ks ++ [bit] })

/-- R134: read one keystream bit. -/
def resultKrd (_ : Params) (i : Imm) (b : Block) : Result := checkStore b (readBit b.ks i b)

/-- R135: read the keystream length. -/
def resultKlen (_ : Params) (b : Block) : Result := checkStore b (readLength b.ks b)

/-- GEN (R131). -/
def execGen (n : Imm) (s : State) : Host.Outcome State Fault Refusal :=
  .next (s.answer (resultGen Config.params n s.block))

/-- KCLR (R132). -/
def execKclr (s : State) : Host.Outcome State Fault Refusal := .next (s.answer (resultKclr Config.params s.block))

/-- KPUSH (R133). -/
def execKpush (bit : Bit) (s : State) : Host.Outcome State Fault Refusal :=
  .next (s.answer (resultKpush Config.params bit s.block))

/-- KRD (R134). -/
def execKrd (i : Imm) (s : State) : Host.Outcome State Fault Refusal :=
  .next (s.answer (resultKrd Config.params i s.block))

/-- KLEN (R135). -/
def execKlen (s : State) : Host.Outcome State Fault Refusal := .next (s.answer (resultKlen Config.params s.block))

end Sys2Proof.Machine
end

