-- ==== Sys2Proof/Machine/PixelMask.lean ====
section
/-! DEFINITION. The pixel mask engine (43_pixel_mask.md, rules R170 to R173). -/

namespace Sys2Proof.Machine

/-- `val(s) = Σ s[i] · 2^(|s|−1−i)` (R15): the leftmost bit is the most significant (R52). -/
def val : Bits → Nat
  | [] => 0
  | b :: rest => b.toNat * 2 ^ rest.length + val rest

/-- The pixel field (R, G, B) with each channel XORed with the mask byte (R13, R172). -/
def maskPixel (r g b m : Byte) : Imm := pixelField (r ^^^ m) (g ^^^ m) (b ^^^ m)

/-- R173: mask one pixel with MASK_FN of the seed's value (R170, R171), then advance the seed by one step. -/
def resultMaskpx (p : Params) (r g b : Byte) (blk : Block) : Result :=
  checkSeedTap blk
    (.respond { blk with seed := stepSeed blk.seed blk.tap.toNat } (maskPixel r g b (p.maskFn (val blk.seed))))

/-- MASKPX (R173). -/
def execMaskpx (r g b : Byte) (s : State) : Host.Outcome State Fault Refusal :=
  .next (s.answer (resultMaskpx Config.params r g b s.block))

end Sys2Proof.Machine
end

