-- ==== Sys2Proof/Machine/Dispatch.lean ====
section
/-! DEFINITION. One arm per command of rule R74. -/

namespace Sys2Proof.Machine

def exec (i : Instr) (s : State) : Host.Outcome State Fault Refusal :=
  match i with
  | .nop => Sys2Proof.Machine.execNop s
  | .clr => Sys2Proof.Machine.execClr s
  | .sclr => Sys2Proof.Machine.execSclr s
  | .spush b => Sys2Proof.Machine.execSpush b s
  | .stap u => Sys2Proof.Machine.execStap u s
  | .step => Sys2Proof.Machine.execStep s
  | .schk => Sys2Proof.Machine.execSchk s
  | .srd n => Sys2Proof.Machine.execSrd n s
  | .slen => Sys2Proof.Machine.execSlen s
  | .taprd => Sys2Proof.Machine.execTaprd s
  | .gen n => Sys2Proof.Machine.execGen n s
  | .kclr => Sys2Proof.Machine.execKclr s
  | .kpush b => Sys2Proof.Machine.execKpush b s
  | .krd n => Sys2Proof.Machine.execKrd n s
  | .klen => Sys2Proof.Machine.execKlen s
  | .xclr => Sys2Proof.Machine.execXclr s
  | .xpush b => Sys2Proof.Machine.execXpush b s
  | .xorc => Sys2Proof.Machine.execXorc s
  | .yrd n => Sys2Proof.Machine.execYrd n s
  | .ylen => Sys2Proof.Machine.execYlen s
  | .maskpx r g b => Sys2Proof.Machine.execMaskpx r g b s

end Sys2Proof.Machine
end

