-- ==== Sys2Proof/Machine/Step.lean ====
section
/-! DEFINITION. One step: the block takes one input of the host and answers it (rules R18, R59, R75). -/

namespace Sys2Proof.Machine

/-- One transaction (R18, R55). With nothing issued the block waits (R231): the state stays as it is (assumption log 5). An external
reset gives no response (R230, R232). A command word is decoded before any other check, and executed or answered with IllegalCommand
(R75). -/
def step (s : State) : Host.Outcome State Fault Refusal :=
  match s.takeInput with
  | none => .next s
  | some (.reset, t) => .next t.externalReset
  | some (.command w, t) =>
    match decode w with
    | .ok i => exec i t
    | .error _ => .next (t.answer (illegalResult w))

/-- The host issues this word next (assumption log 6): it stands first among the inputs the block has yet to accept. -/
def State.withFetchWord (s : State) (nbits w : Nat) : State :=
  { s with pending := .command (tableWord nbits w) :: s.pending }

end Sys2Proof.Machine
end

