-- ==== Sys2Proof/WellFormed.lean ====
section
/-! DEFINITION. What must be checked before a term stands for something of the spec: a parameter set (rules R6 to R8), and a
command written with natural-number operands, as the assembler reads it (rules R72, R73, R79). An `Instr` itself needs no check:
its operand types hold exactly the encodable values. -/

namespace Sys2Proof

/-- The bounds of rules R6 to R8. -/
abbrev Params.Wf (p : Params) : Prop :=
  1 ≤ p.lmax ∧ p.lmax ≤ 2 ^ 24 - 1 ∧ p.kmax ≤ 2 ^ 24 - 1 ∧ p.xmax ≤ 2 ^ 24 - 1

/-- A bit operand (format B) fits its field (R72, R79). -/
def bitOperand? (n : Nat) : Option Bit :=
  if n < 2 then some (n == 1) else none

/-- An unsigned operand (format U) fits its 24-bit field (R73, R79). -/
def immOperand? (n : Nat) : Option Imm :=
  if n < 2 ^ 24 then some (BitVec.ofNat 24 n) else none

/-- A channel operand (format P) fits its 8-bit field (R73, R79). -/
def channelOperand? (n : Nat) : Option Byte :=
  if n < 2 ^ 8 then some (BitVec.ofNat 8 n) else none

/-- The command a mnemonic and its natural-number operands stand for. `none` for a name that is no mnemonic of rule R74, for a wrong
number of operands, and for an operand that does not fit its field ("The assembler refuses an operand that does not fit its field",
R79). -/
def Instr.ofOperands? (mnemonic : String) (operands : List Nat) : Option Instr :=
  match mnemonic, operands with
  | "NOP", [] => some .nop
  | "CLR", [] => some .clr
  | "SCLR", [] => some .sclr
  | "SPUSH", [b] => (bitOperand? b).map .spush
  | "STAP", [u] => (immOperand? u).map .stap
  | "STEP", [] => some .step
  | "SCHK", [] => some .schk
  | "SRD", [i] => (immOperand? i).map .srd
  | "SLEN", [] => some .slen
  | "TAPRD", [] => some .taprd
  | "GEN", [n] => (immOperand? n).map .gen
  | "KCLR", [] => some .kclr
  | "KPUSH", [b] => (bitOperand? b).map .kpush
  | "KRD", [i] => (immOperand? i).map .krd
  | "KLEN", [] => some .klen
  | "XCLR", [] => some .xclr
  | "XPUSH", [b] => (bitOperand? b).map .xpush
  | "XORC", [] => some .xorc
  | "YRD", [i] => (immOperand? i).map .yrd
  | "YLEN", [] => some .ylen
  | "MASKPX", [r, g, b] => do
    let r ← channelOperand? r
    let g ← channelOperand? g
    let b ← channelOperand? b
    return .maskpx r g b
  | _, _ => none

/-- A command written with natural-number operands is well formed when it stands for some command. -/
def wellFormedOperands (mnemonic : String) (operands : List Nat) : Bool :=
  (Instr.ofOperands? mnemonic operands).isSome

end Sys2Proof
end

