-- ==== Sys2Proof/Machine/Assembler.lean ====
section
/-! DEFINITION. The assembler's side of the command set: pseudo-instructions and their expansions (rule R80), and the line syntax
(rule R79). All of it stands on the host's side of the channel: the block sees command words only. -/

namespace Sys2Proof.Machine

/-- The pseudo-instructions of rule R80. -/
inductive Pseudo where
  | ldseed (s : Bits)
  | ldks (k : Bits)
  | ldx (x : Bits)
  | genks (s : Bits) (t : Imm) (n : Imm)
  | enc
  | dec
  | epx (r g b : Byte)
  | dpx (r g b : Byte)
deriving DecidableEq, Repr

/-- The commands a pseudo-instruction stands for (R80). -/
def expand : Pseudo → List Instr
  | .ldseed s => .sclr :: s.map .spush
  | .ldks k => .kclr :: k.map .kpush
  | .ldx x => .xclr :: x.map .xpush
  | .genks s t n => .sclr :: s.map .spush ++ [.stap t, .gen n]
  | .enc => [.xorc]
  | .dec => [.xorc]
  | .epx r g b => [.maskpx r g b]
  | .dpx r g b => [.maskpx r g b]

/-- An operand as it is written (R79): a number, or a bit string in double quotes. -/
inductive AsmOperand where
  | num (n : Nat)
  | bits (s : Bits)
deriving DecidableEq, Repr

/-- A digit of a base up to 16; letters stand for 10 to 15 in either case (assumption log 9). -/
def digitValue? (base : Nat) (c : Char) : Option Nat :=
  let d :=
    if '0' ≤ c ∧ c ≤ '9' then c.toNat - '0'.toNat
    else if 'a' ≤ c ∧ c ≤ 'f' then c.toNat - 'a'.toNat + 10
    else if 'A' ≤ c ∧ c ≤ 'F' then c.toNat - 'A'.toNat + 10
    else base
  if d < base then some d else none

/-- The number that digits stand for, most significant first, after the digits already read. -/
def digitsValue? (base : Nat) : Nat → List Char → Option Nat
  | acc, [] => some acc
  | acc, c :: rest =>
    match digitValue? base c with
    | some d => digitsValue? base (acc * base + d) rest
    | none => none

/-- A number written in decimal or as `0x` hexadecimal (R79). Leading zeros are allowed (assumption log 9). -/
def number? : List Char → Option Nat
  | [] => none
  | ['0', 'x'] => none
  | '0' :: 'x' :: digits => digitsValue? 16 0 digits
  | digits => digitsValue? 10 0 digits

/-- The bits of a '0'/'1' text, leftmost first; `none` when any other character stands in it (R51, R63). -/
def bitsOfText? : List Char → Option Bits
  | [] => some []
  | '0' :: rest => (bitsOfText? rest).map (false :: ·)
  | '1' :: rest => (bitsOfText? rest).map (true :: ·)
  | _ :: _ => none

/-- A space or a tab (assumption log 9). -/
def isBlank (c : Char) : Bool := c == ' ' || c == '\t'

/-- A text without the blanks at its two ends. -/
def trimBlanks (text : List Char) : List Char := ((text.dropWhile isBlank).reverse.dropWhile isBlank).reverse

/-- A text cut at each occurrence of a character. -/
def splitAtChar (sep : Char) : List Char → List (List Char)
  | [] => [[]]
  | c :: rest =>
    match splitAtChar sep rest with
    | [] => [[]]
    | first :: others => if c == sep then [] :: first :: others else (c :: first) :: others

/-- One operand (R79). Every number may be written in decimal or hexadecimal: R79 says so of formats U and P; that a format B operand and
the number operands of a pseudo-instruction may be written so too is the model's choice (assumption log 9). -/
def operand? (text : List Char) : Option AsmOperand :=
  match text with
  | '"' :: rest =>
    match rest.reverse with
    | '"' :: inner => (bitsOfText? inner.reverse).map .bits
    | _ => none
  | _ => (number? text).map .num

/-- Operands are separated by commas (R79, R80). -/
def operands? (text : List Char) : Option (List AsmOperand) :=
  match trimBlanks text with
  | [] => some []
  | t => (splitAtChar ',' t).mapM fun o => operand? (trimBlanks o)

/-- The numbers of a list of operands; `none` when a bit string stands among them. -/
def numbers? : List AsmOperand → Option (List Nat)
  | [] => some []
  | .num n :: rest => (numbers? rest).map (n :: ·)
  | .bits _ :: _ => none

/-- A pseudo-instruction from its name and operands (R80). -/
def pseudo? (name : String) (operands : List AsmOperand) : Option Pseudo :=
  match name, operands with
  | "LDSEED", [.bits s] => some (.ldseed s)
  | "LDKS", [.bits k] => some (.ldks k)
  | "LDX", [.bits x] => some (.ldx x)
  | "GENKS", [.bits s, .num t, .num n] => do
    let t ← immOperand? t
    let n ← immOperand? n
    return .genks s t n
  | "ENC", [] => some .enc
  | "DEC", [] => some .dec
  | "EPX", [.num r, .num g, .num b] => do
    let r ← channelOperand? r
    let g ← channelOperand? g
    let b ← channelOperand? b
    return .epx r g b
  | "DPX", [.num r, .num g, .num b] => do
    let r ← channelOperand? r
    let g ← channelOperand? g
    let b ← channelOperand? b
    return .dpx r g b
  | _, _ => none

/-- The commands a name and its operands stand for: a command of rule R74, or the expansion of a pseudo-instruction. -/
def commands? (name : String) (operands : List AsmOperand) : Option (List Instr) :=
  match (numbers? operands).bind (Instr.ofOperands? name) with
  | some i => some [i]
  | none => (pseudo? name operands).map expand

/-- The commands of one line (R79): at most one command or pseudo-instruction, and `;` starts a comment, wherever it stands. `none` is a
line the assembler refuses. -/
def assembleLine (line : List Char) : Option (List Instr) :=
  match trimBlanks (line.takeWhile (· != ';')) with
  | [] => some []
  | text =>
    (operands? (text.dropWhile fun c => !isBlank c)).bind
      (commands? (String.ofList (text.takeWhile fun c => !isBlank c)))

/-- The commands of a text, line by line (R79). R79 says that the assembler refuses an operand that does not fit; that one refused line
refuses the whole text is the model's choice (assumption log 9). -/
def assemble (text : List Char) : Option (List Instr) :=
  ((splitAtChar '\n' text).mapM assembleLine).map List.flatten

end Sys2Proof.Machine
end

