-- ==== Sys2Proof/Machine/Boundary.lean ====
section
/-! DEFINITION. The host's conversions at the boundary and the errors it reports before it issues any command (rules R63, R204,
R216). -/

namespace Sys2Proof.Machine

/-- The host-side errors (R216). -/
inductive HostError where
  /-- A seed text that is empty or holds a character other than '0' and '1' (R216 a). -/
  | malformedSeed
  /-- A tap text that denotes a negative number, or 2^24 or more (R216 b). -/
  | invalidTap
  /-- A plaintext or ciphertext with a character other than '0' and '1' (R216 c). -/
  | malformedBitString
  /-- A missing image file, with the missing path (R204, R216 d). -/
  | imageNotFound (path : List Char)
deriving DecidableEq, Repr

/-- The seed a text denotes (R63, R216 a). -/
def seedOfText (text : List Char) : Except HostError Bits :=
  match bitsOfText? text with
  | none => .error .malformedSeed
  | some [] => .error .malformedSeed
  | some s => .ok s

/-- The plaintext or ciphertext a text denotes (R63, R216 c). -/
def inputOfText (text : List Char) : Except HostError Bits :=
  match bitsOfText? text with
  | none => .error .malformedBitString
  | some x => .ok x

/-- The tap a number denotes (R216 b). -/
def tapOfInt (t : Int) : Except HostError Imm :=
  if t < 0 then .error .invalidTap
  else if (2 : Int) ^ 24 ≤ t then .error .invalidTap
  else .ok (BitVec.ofNat 24 t.toNat)

/-- An image the host has looked up under a path (R204, R216 d). -/
def imageOfPath {α : Type} (path : List Char) (found : Option α) : Except HostError α :=
  match found with
  | none => .error (.imageNotFound path)
  | some image => .ok image

/-- The text blob of a bit sequence: one '0' or '1' a bit, no separators (R63). -/
def textOfBits (s : Bits) : List Char := s.map fun b => if b then '1' else '0'

end Sys2Proof.Machine
end

