-- ==== Sys2Proof/Machine/Transact.lean ====
section
/-! DEFINITION. The block as the function of rule R18, `exec : Params → State → CommandWord → State × ResponseWord`, for EVERY set
of parameters, over the same meanings as `exec`. -/

namespace Sys2Proof.Machine

/-- How a command ends, for the parameters `p` (R18). -/
def resultOf (p : Params) (i : Instr) (b : Block) : Result :=
  match i with
  | .nop => resultNop p b
  | .clr => resultClr p b
  | .sclr => resultSclr p b
  | .spush bit => resultSpush p bit b
  | .stap u => resultStap p u b
  | .step => resultStep p b
  | .schk => resultSchk p b
  | .srd n => resultSrd p n b
  | .slen => resultSlen p b
  | .taprd => resultTaprd p b
  | .gen n => resultGen p n b
  | .kclr => resultKclr p b
  | .kpush bit => resultKpush p bit b
  | .krd n => resultKrd p n b
  | .klen => resultKlen p b
  | .xclr => resultXclr p b
  | .xpush bit => resultXpush p bit b
  | .xorc => resultXorc p b
  | .yrd n => resultYrd p n b
  | .ylen => resultYlen p b
  | .maskpx red green blue => resultMaskpx p red green blue b

/-- How a command word ends: decoding comes first (R75). -/
def resultOfWord (p : Params) (w : CommandWord) (b : Block) : Result :=
  match decode w with
  | .ok i => resultOf p i b
  | .error _ => illegalResult w

/-- One transaction (R18): the block after the command word, and its response word. -/
def transact (p : Params) (w : CommandWord) (b : Block) : Block × ResponseWord :=
  ((resultOfWord p w b).block b, (resultOfWord p w b).word)

/-- The host's command sequence applied in order (R18, R59): the final block and the sequence of responses (R19). -/
def transactAll (p : Params) : List CommandWord → Block → Block × List ResponseWord
  | [], b => (b, [])
  | w :: rest, b =>
    ((transactAll p rest (transact p w b).1).1, (transact p w b).2 :: (transactAll p rest (transact p w b).1).2)

end Sys2Proof.Machine
end

