-- ==== Sys2Proof/Machine/Image.lean ====
section
/-! DEFINITION. The image procedure, which the host runs over MASKPX (rule R174). -/

namespace Sys2Proof.Machine

/-- A pixel: a triple of 8-bit channels (R17). -/
structure Pixel where
  r : Byte
  g : Byte
  b : Byte
deriving DecidableEq, Repr

/-- The pixel in a DATA field (R53). -/
def pixelOfData (d : Imm) : Pixel := ⟨d.extractLsb' 16 8, d.extractLsb' 8 8, d.extractLsb' 0 8⟩

/-- The host issues one command and reads its response. -/
def issue (p : Params) (i : Instr) (b : Block) : Block × ResponseWord := transact p (encode i) b

/-- The host issues commands in order and stops at the first error response, which it keeps. -/
def issueUntilError (p : Params) : List Instr → Block → Block × Option ResponseWord
  | [], b => (b, none)
  | i :: rest, b =>
    if codeField (issue p i b).2 = 0 then issueUntilError p rest (issue p i b).1
    else ((issue p i b).1, some (issue p i b).2)

/-- One row of an image, left to right: a MASKPX a pixel, its DATA the masked pixel (R174). -/
def maskRow (p : Params) : List Pixel → Block → Block × List Pixel
  | [], b => (b, [])
  | px :: rest, b =>
    let answered := issue p (.maskpx px.r px.g px.b) b
    let masked := maskRow p rest answered.1
    (masked.1, pixelOfData (dataField answered.2) :: masked.2)

/-- The rows of an image, row 0 first (R174). -/
def maskRows (p : Params) : List (List Pixel) → Block → Block × List (List Pixel)
  | [], b => (b, [])
  | row :: rest, b =>
    let first := maskRow p row b
    let others := maskRows p rest first.1
    (others.1, first.2 :: others.2)

/-- `MASK_IMAGE(P, S_0, t)` (R174): load the seed, set the tap, check, then mask every pixel. An error response before the pixels ends
the procedure with that error and no output (assumption log 7 for an error of the loading commands). -/
def maskImage (p : Params) (image : List (List Pixel)) (s : Bits) (t : Imm) (b : Block) :
    Block × Except ResponseWord (List (List Pixel)) :=
  match issueUntilError p (expand (.ldseed s) ++ [.stap t, .schk]) b with
  | (b', some e) => (b', .error e)
  | (b', none) => ((maskRows p image b').1, .ok (maskRows p image b').2)

end Sys2Proof.Machine
end

