-- ==== Sys2Proof/Machine/Ports.lean ====
section
/-! DEFINITION. The signal-level refinement of rule R64: the port list, one clock cycle, and runs of cycles. The normative model is
the transaction level (`transact`, `step`); no rule of it depends on this file. -/

namespace Sys2Proof.Machine

/-- The inputs of one clock cycle (R64). `latency` is no port: it is how many cycles the implementation takes over a command accepted
in this cycle before it shows the response, any finite number (R238, item I8), so a run's statement holds whatever the latencies are.
With 0 the response can be delivered in the very next cycle, the first of R64's later cycles. -/
structure PortIn where
  rst : Bit
  cmdValid : Bit
  cmdWord : CommandWord
  rspReady : Bit
  latency : Nat
deriving DecidableEq, Repr

/-- Where the one command that may be in flight stands (R64). -/
inductive Phase where
  /-- No command is in flight. -/
  | idle
  /-- A command has been accepted and is in progress, with `left` further cycles to go after this one. R16 and R56 make its
  writes together; that none has been made yet is the model's choice (assumption log 8). -/
  | busy (w : CommandWord) (left : Nat)
  /-- The command is complete and its response waits to be delivered. -/
  | responding (r : ResponseWord)
deriving DecidableEq, Repr

/-- The block behind its ports. -/
structure PortState where
  block : Block
  phase : Phase
deriving DecidableEq, Repr

/-- `cmd_ready` stays 0 from acceptance until the response has been delivered (R64). That it is 1 in every cycle with no command in
flight is the model's choice, a DESIGN CHOICE (assumption log 14): R64 does not say. -/
def PortState.cmdReady (s : PortState) : Bool :=
  match s.phase with
  | .idle => true
  | .busy _ _ => false
  | .responding _ => false

/-- `rsp_word` while `rsp_valid` is 1, and `none` while it is 0. That `rsp_valid` is 1 in every cycle from the command's completion until
the delivery is the model's choice, a DESIGN CHOICE (assumption log 14): R64 says only which cycle delivers. -/
def PortState.rspWord? (s : PortState) : Option ResponseWord :=
  match s.phase with
  | .responding r => some r
  | .idle => none
  | .busy _ _ => none

/-- The command accepted in a cycle: `cmd_valid` and `cmd_ready` both 1, and no reset (R64; assumption log 8 for a cycle with `rst`). -/
def accepted? (s : PortState) (i : PortIn) : Option CommandWord :=
  if !i.rst && i.cmdValid && s.cmdReady then some i.cmdWord else none

/-- The response delivered in a cycle: `rsp_valid` and `rsp_ready` both 1, and no reset (R64, R232; assumption log 8). -/
def delivered? (s : PortState) (i : PortIn) : Option ResponseWord :=
  if !i.rst && i.rspReady then s.rspWord? else none

/-- The ports one cycle on, with command `w` in flight and this many cycles to go: with none to go the command completes, all its writes
at once (R16, R56), and its response becomes valid. That the writes are made in that cycle is the model's choice, a DESIGN CHOICE
(assumption log 8). -/
def advance (p : Params) (w : CommandWord) (b : Block) : Nat → PortState
  | 0 => ⟨(transact p w b).1, .responding (transact p w b).2⟩
  | left + 1 => ⟨b, .busy w left⟩

/-- One clock cycle (R64). A reset aborts a command in progress: no response, none of its writes (R232). A response that is valid stays
so until it is delivered (assumption log 14). -/
def clock (p : Params) (s : PortState) (i : PortIn) : PortState :=
  if i.rst then ⟨Block.reset, .idle⟩
  else
    match s.phase with
    | .idle => if i.cmdValid then advance p i.cmdWord s.block i.latency else s
    | .busy w left => advance p w s.block left
    | .responding _ => if i.rspReady then { s with phase := .idle } else s

/-- The ports after reset (R230). -/
def PortState.reset : PortState := ⟨Block.reset, .idle⟩

/-- The state after a run of cycles. -/
def clockAll (p : Params) : List PortIn → PortState → PortState
  | [], s => s
  | i :: rest, s => clockAll p rest (clock p s i)

/-- The commands accepted over a run of cycles, in order. -/
def acceptedAll (p : Params) : List PortIn → PortState → List CommandWord
  | [], _ => []
  | i :: rest, s => (accepted? s i).toList ++ acceptedAll p rest (clock p s i)

/-- The responses delivered over a run of cycles, in order. -/
def deliveredAll (p : Params) : List PortIn → PortState → List ResponseWord
  | [], _ => []
  | i :: rest, s => (delivered? s i).toList ++ deliveredAll p rest (clock p s i)

end Sys2Proof.Machine
end

