-- ==== Sys2Proof/Safety.lean ====
section
/-! DEFINITION. What holds in every state of a run: the legal values of rules R20 and R30 and the invariant of rule R24. -/

namespace Sys2Proof.Machine

/-- The legal values of every component (R20, R30), and `KS_VALID = 0 ⇒ KS = []` (R24). TAP needs no clause: it is a 24-bit field and
any value is stored (R23). -/
abbrev Block.Wf (p : Params) (b : Block) : Prop :=
  b.seed.length ≤ p.lmax ∧ b.ks.length ≤ p.kmax ∧ b.x.length ≤ p.xmax ∧ b.y.length ≤ max p.kmax p.xmax ∧
    (b.ksValid = false → b.ks = [])

/-- The invariant of the machine. -/
abbrev State.Inv (s : State) : Prop := s.block.Wf Config.params

end Sys2Proof.Machine
end

