-- ==== Sys2Proof/Certificates/Slice0/Obligations.lean ====
section
/-! DEFINITION. The statements about LFSR_CORE, from the numbered rules of spec/. Each docstring names the rules it formalises.
The capacities and MASK_FN are opaque (`Config`), or arbitrary where a statement quantifies over `p : Params`, so every statement
holds whatever they are. -/

open Sys2Proof Sys2Proof.Machine

/-! Vocabulary of the statements. -/

/-- The state after a command that leaves the block at `b` and answers `r`: exactly one response word, and nothing else touched. -/
def Sys2Proof.Stated.answered (s : State) (b : Block) (r : ResponseWord) : State :=
  { block := b, pending := s.pending, responses := s.responses ++ [r] }

/-- A success response with a number in DATA. -/
def Sys2Proof.Stated.okWord (n : Nat) : ResponseWord := (0x00#8 ++ BitVec.ofNat 24 n : BitVec (8 + 24))

/-- A response with this CODE and this number in DATA. -/
def Sys2Proof.Stated.errWord (code : BitVec 8) (n : Nat) : ResponseWord := (code ++ BitVec.ofNat 24 n : BitVec (8 + 24))

/-- The word `op · 2^24 | imm`. -/
def Sys2Proof.Stated.word (op : BitVec 8) (imm : BitVec 24) : CommandWord := (op ++ imm : BitVec (8 + 24))

/-- The command uses the seed and the tap (R102): STEP, SCHK, GEN and MASKPX. -/
def Sys2Proof.Stated.usesSeedTap : Instr → Prop
  | .step => True
  | .schk => True
  | .gen _ => True
  | .maskpx _ _ _ => True
  | .nop => False
  | .clr => False
  | .sclr => False
  | .spush _ => False
  | .stap _ => False
  | .srd _ => False
  | .slen => False
  | .taprd => False
  | .kclr => False
  | .kpush _ => False
  | .krd _ => False
  | .klen => False
  | .xclr => False
  | .xpush _ => False
  | .xorc => False
  | .yrd _ => False
  | .ylen => False

open Sys2Proof.Stated

/-! ## Reset, stepping and decoding -/

/-- R31, R230, R232: the reset values; the external reset gives them with no response, and CLR gives them with the response 0x00000000.
That the commands issued and not accepted stay pending over an external reset is the model's choice, log entry 10. -/
def Obligations.ResetsGiveTheResetValues : Prop :=
  (State.reset.block.seed = [] ∧ State.reset.block.tap = 0 ∧ State.reset.block.ksValid = false ∧
    State.reset.block.ks = [] ∧ State.reset.block.x = [] ∧ State.reset.block.y = []) ∧
  (∀ (s : State) (rest : List Input), s.pending = .reset :: rest →
    step s = .next { block := State.reset.block, pending := rest, responses := s.responses }) ∧
  ∀ s : State, exec .clr s = .next (answered s State.reset.block 0x00000000#32)

/-- R18, R75, R230, R231, R232: what a step does with each kind of input. Three clauses rest on the model's choices: the wait of a block
with nothing issued on log entry 5; that a reset leaves the commands not accepted pending on log entry 10; and the last, that
`withFetchWord` makes the next step run its word, on log entry 6. -/
def Obligations.StepRunsTheDecodedCommand : Prop :=
  ∀ s : State,
    (s.pending = [] → step s = .next s) ∧
    (∀ rest, s.pending = .reset :: rest →
      step s = .next { block := Block.reset, pending := rest, responses := s.responses }) ∧
    (∀ w rest i, s.pending = .command w :: rest → decode w = .ok i →
      step s = exec i { block := s.block, pending := rest, responses := s.responses }) ∧
    (∀ w rest e, s.pending = .command w :: rest → decode w = .error e →
      step s = .next { block := s.block, pending := rest,
                       responses := s.responses ++ [errWord 0x06 (w.toNat / 2 ^ 24)] }) ∧
    ∀ (w : CommandWord) (i : Instr), decode w = .ok i → step (s.withFetchWord 32 w.toNat) = exec i s

/-- R81: the worked encodings and the commands they stand for, both ways, and the illegal word with its answer. -/
def Obligations.WorkedEncodingsDecode : Prop :=
  decode 0x11000001#32 = .ok (.spush true) ∧ decode 0x12000002#32 = .ok (.stap 2) ∧
  decode 0x20000005#32 = .ok (.gen 5) ∧ decode 0x40102030#32 = .ok (.maskpx 0x10 0x20 0x30) ∧
  decode 0x32000000#32 = .ok .xorc ∧
  encode (.spush true) = 0x11000001#32 ∧ encode (.stap 2) = 0x12000002#32 ∧ encode (.gen 5) = 0x20000005#32 ∧
  encode (.maskpx 0x10 0x20 0x30) = 0x40102030#32 ∧ encode .xorc = 0x32000000#32 ∧
  ∀ (s : State) (rest : List Input), s.pending = .command 0x13000001#32 :: rest →
    step s = .next { block := s.block, pending := rest, responses := s.responses ++ [0x06000013#32] }

/-- R74, R75: a word decodes to a command exactly when it selects a row of the opcode map, the command is that row's, and no word
selects two rows. -/
def Obligations.DecodingFollowsTheOpcodeMap : Prop :=
  ∀ w : CommandWord,
    (∀ row ∈ opcodeMap, w &&& row.mask = row.pattern → ∃ i, decode w = .ok i ∧ i.mnemonic = row.mnemonic) ∧
    (∀ i, decode w = .ok i → ∃ row ∈ opcodeMap, w &&& row.mask = row.pattern ∧ row.mnemonic = i.mnemonic) ∧
    ∀ row ∈ opcodeMap, ∀ row' ∈ opcodeMap, w &&& row.mask = row.pattern → w &&& row'.mask = row'.pattern → row = row'

/-- R70, R72 to R75: every command, with every value of its operands, survives encoding and decoding. -/
def Obligations.DecodeOfEncodeIsTheCommand : Prop :=
  ∀ i : Instr, decode (encode i) = .ok i

/-- R72, R75: the decoder drops no bit of a word it accepts, so each legal word is the word of exactly one command. -/
def Obligations.EncodeOfDecodeIsTheWord : Prop :=
  ∀ (w : CommandWord) (i : Instr), decode w = .ok i → encode i = w

/-- R76, R207: the illegal encodings, listed as the rule lists them, and what each answers; no other word answers IllegalCommand. -/
def Obligations.IllegalEncodingsAnswerIllegalCommand : Prop :=
  ∀ (s : State) (w : CommandWord) (rest : List Input), s.pending = .command w :: rest →
    let op := w.toNat / 2 ^ 24
    let imm := w.toNat % 2 ^ 24
    let reserved := (0x02 ≤ op ∧ op ≤ 0x0F) ∨ (0x18 ≤ op ∧ op ≤ 0x1F) ∨ (0x25 ≤ op ∧ op ≤ 0x2F) ∨
      (0x35 ≤ op ∧ op ≤ 0x3F) ∨ 0x41 ≤ op
    let formatN := op ∈ [0x00, 0x01, 0x10, 0x13, 0x14, 0x16, 0x17, 0x21, 0x24, 0x30, 0x32, 0x34]
    let formatB := op ∈ [0x11, 0x22, 0x31]
    let illegal := reserved ∨ (formatN ∧ imm ≠ 0) ∨ (formatB ∧ imm / 2 ≠ 0)
    (illegal → step s = .next { block := s.block, pending := rest, responses := s.responses ++ [errWord 0x06 op] }) ∧
    (¬ illegal → ∃ t r, step s = .next t ∧ t.responses = s.responses ++ [r] ∧ codeField r ≠ 0x06)

/-! ## The commands -/

/-- R190. -/
def Obligations.NopAnswersZero : Prop :=
  decode 0x00000000#32 = .ok .nop ∧ ∀ s : State, exec .nop s = .next (answered s s.block 0x00000000#32)

/-- R191: CLR gives the reset state and answers; XORC then raises KeystreamNotFound, and goes on doing so until GEN or KCLR runs. -/
def Obligations.ClrGivesTheResetState : Prop :=
  decode 0x01000000#32 = .ok .clr ∧
  (∀ s : State, exec .clr s = .next (answered s ⟨[], 0, false, [], [], []⟩ 0x00000000#32)) ∧
  (∀ s : State, s.block.ksValid = false → exec .xorc s = .next (answered s s.block 0x02000000#32)) ∧
  ∀ (i : Instr) (s t : State), i ≠ .kclr → (∀ n, i ≠ .gen n) → s.block.ksValid = false → exec i s = .next t →
    t.block.ksValid = false

/-- R107, R153: SCLR empties the seed only, XCLR the input bit string only. -/
def Obligations.ClearsEmptyTheirSequence : Prop :=
  decode 0x10000000#32 = .ok .sclr ∧ decode 0x30000000#32 = .ok .xclr ∧
  ∀ s : State,
    exec .sclr s = .next (answered s { s.block with seed := [] } 0x00000000#32) ∧
    exec .xclr s = .next (answered s { s.block with x := [] } 0x00000000#32)

/-- R108: SPUSH appends on the right, or raises CapacityExceeded; a seed is loaded by SCLR and one SPUSH a bit. -/
def Obligations.SpushAppendsOneSeedBit : Prop :=
  decode 0x11000000#32 = .ok (.spush false) ∧ decode 0x11000001#32 = .ok (.spush true) ∧
  (∀ (s : State) (b : Bit),
    (s.block.seed.length = Config.params.lmax →
      exec (.spush b) s = .next (answered s s.block (errWord 0x05 Config.params.lmax))) ∧
    (s.block.seed.length ≠ Config.params.lmax →
      exec (.spush b) s = .next (answered s { s.block with seed := s.block.seed ++ [b] } 0x00000000#32))) ∧
  ∀ (p : Params) (b : Block) (bits : Bits), bits.length ≤ p.lmax →
    (transactAll p ((.sclr :: bits.map .spush).map encode) b).1 = { b with seed := bits }

/-- R109: STAP stores any tap, unchecked. -/
def Obligations.StapStoresAnyTap : Prop :=
  ∀ u : Imm, decode (word 0x12 u) = .ok (.stap u) ∧
    ∀ s : State, exec (.stap u) s = .next (answered s { s.block with tap := u } 0x00000000#32)

/-- R110: STEP on a checked seed and tap, and its two errors. -/
def Obligations.StepShiftsInTheFeedback : Prop :=
  decode 0x13000000#32 = .ok .step ∧
  ∀ s : State,
    (∀ (first tapped : Bit) (rest : Bits), s.block.seed = first :: rest → s.block.seed[s.block.tap.toNat]? = some tapped →
      exec .step s = .next (answered s { s.block with seed := rest ++ [first ^^ tapped] } (okWord (first ^^ tapped).toNat))) ∧
    (s.block.seed = [] → exec .step s = .next (answered s s.block 0x04000000#32)) ∧
    (s.block.seed ≠ [] → s.block.seed.length ≤ s.block.tap.toNat →
      exec .step s = .next (answered s s.block (errWord 0x01 s.block.tap.toNat)))

/-- R111: SCHK answers 0 on a legal seed and tap, and otherwise the error; it writes nothing. -/
def Obligations.SchkChecksWithoutStepping : Prop :=
  decode 0x14000000#32 = .ok .schk ∧
  ∀ s : State,
    (s.block.tap.toNat < s.block.seed.length → exec .schk s = .next (answered s s.block 0x00000000#32)) ∧
    (s.block.seed = [] → exec .schk s = .next (answered s s.block 0x04000000#32)) ∧
    (s.block.seed ≠ [] → s.block.seed.length ≤ s.block.tap.toNat →
      exec .schk s = .next (answered s s.block (errWord 0x01 s.block.tap.toNat)))

/-- R112, R156: SRD and YRD read one bit of S and Y, or raise IndexOutOfRange with the length; after reset every YRD fails, and no
command but XORC gives Y a bit. -/
def Obligations.SrdAndYrdReadOneBit : Prop :=
  (∀ i : Imm, decode (word 0x15 i) = .ok (.srd i) ∧ decode (word 0x33 i) = .ok (.yrd i)) ∧
  (∀ (s : State) (i : Imm) (v : Bit),
    (s.block.seed[i.toNat]? = some v → exec (.srd i) s = .next (answered s s.block (okWord v.toNat))) ∧
    (s.block.y[i.toNat]? = some v → exec (.yrd i) s = .next (answered s s.block (okWord v.toNat)))) ∧
  (∀ (s : State) (i : Imm),
    (s.block.seed.length ≤ i.toNat →
      exec (.srd i) s = .next (answered s s.block (errWord 0x07 s.block.seed.length))) ∧
    (s.block.y.length ≤ i.toNat → exec (.yrd i) s = .next (answered s s.block (errWord 0x07 s.block.y.length)))) ∧
  (∀ i : Imm, exec (.yrd i) State.reset = .next (answered State.reset State.reset.block 0x07000000#32)) ∧
  ∀ (i : Instr) (s t : State), i ≠ .xorc → s.block.y = [] → exec i s = .next t → t.block.y = []

/-- R113, R114, R157: SLEN, TAPRD and YLEN. -/
def Obligations.SlenTaprdYlenReadTheirValue : Prop :=
  decode 0x16000000#32 = .ok .slen ∧ decode 0x17000000#32 = .ok .taprd ∧ decode 0x34000000#32 = .ok .ylen ∧
  (∀ s : State,
    exec .slen s = .next (answered s s.block (okWord s.block.seed.length)) ∧
    exec .taprd s = .next (answered s s.block (okWord s.block.tap.toNat)) ∧
    exec .ylen s = .next (answered s s.block (okWord s.block.y.length))) ∧
  exec .taprd State.reset = .next (answered State.reset State.reset.block 0x00000000#32) ∧
  exec .ylen State.reset = .next (answered State.reset State.reset.block 0x00000000#32)

/-- R131, R136: GEN writes `ks(S, TAP, N)`, of length N, and leaves S_N; its three errors, in their order. The last clause covers every N
on a legal seed and tap: CapacityExceeded beyond KMAX, the keystream up to it. -/
def Obligations.GenWritesTheKeystream : Prop :=
  ∀ n : Imm, decode (word 0x20 n) = .ok (.gen n) ∧
    ∀ s : State,
      (s.block.tap.toNat < s.block.seed.length → n.toNat ≤ Config.params.kmax →
        exec (.gen n) s = .next (answered s
          { s.block with
            seed := trajectory s.block.seed s.block.tap.toNat n.toNat
            ks := keystream s.block.seed s.block.tap.toNat n.toNat
            ksValid := true } 0x00000000#32) ∧
        (keystream s.block.seed s.block.tap.toNat n.toNat).length = n.toNat) ∧
      (s.block.seed = [] → exec (.gen n) s = .next (answered s s.block 0x04000000#32)) ∧
      (s.block.seed ≠ [] → s.block.seed.length ≤ s.block.tap.toNat →
        exec (.gen n) s = .next (answered s s.block (errWord 0x01 s.block.tap.toNat))) ∧
      (s.block.tap.toNat < s.block.seed.length →
        exec (.gen n) s = .next (
          if Config.params.kmax < n.toNat then answered s s.block (errWord 0x05 Config.params.kmax)
          else answered s
            { s.block with
              seed := trajectory s.block.seed s.block.tap.toNat n.toNat
              ks := keystream s.block.seed s.block.tap.toNat n.toNat
              ksValid := true } 0x00000000#32))

/-- R132: KCLR creates an empty store whatever stood there, and an XORC right after it gives Y = X. -/
def Obligations.KclrCreatesAnEmptyStore : Prop :=
  decode 0x21000000#32 = .ok .kclr ∧
  ∀ s : State,
    exec .kclr s = .next (answered s { s.block with ks := [], ksValid := true } 0x00000000#32) ∧
    ∀ t, exec .kclr s = .next t → ∃ u, exec .xorc t = .next u ∧ u.block = { t.block with y := t.block.x }

/-- R133: KPUSH appends one bit to the store; KeystreamNotFound comes before CapacityExceeded. -/
def Obligations.KpushAppendsOneStoreBit : Prop :=
  decode 0x22000000#32 = .ok (.kpush false) ∧ decode 0x22000001#32 = .ok (.kpush true) ∧
  ∀ (s : State) (b : Bit),
    (s.block.ksValid = false → exec (.kpush b) s = .next (answered s s.block 0x02000000#32)) ∧
    (s.block.ksValid = true → s.block.ks.length = Config.params.kmax →
      exec (.kpush b) s = .next (answered s s.block (errWord 0x05 Config.params.kmax))) ∧
    (s.block.ksValid = true → s.block.ks.length ≠ Config.params.kmax →
      exec (.kpush b) s = .next (answered s { s.block with ks := s.block.ks ++ [b] } 0x00000000#32))

/-- R134: KRD reads one bit of the store; KeystreamNotFound comes before IndexOutOfRange. -/
def Obligations.KrdReadsOneStoreBit : Prop :=
  ∀ i : Imm, decode (word 0x23 i) = .ok (.krd i) ∧
    ∀ s : State,
      (s.block.ksValid = false → exec (.krd i) s = .next (answered s s.block 0x02000000#32)) ∧
      (s.block.ksValid = true → s.block.ks.length ≤ i.toNat →
        exec (.krd i) s = .next (answered s s.block (errWord 0x07 s.block.ks.length))) ∧
      ∀ v : Bit, s.block.ksValid = true → s.block.ks[i.toNat]? = some v →
        exec (.krd i) s = .next (answered s s.block (okWord v.toNat))

/-- R135: KLEN reads the length of the store, and tells an empty store from a missing one. -/
def Obligations.KlenReadsTheStoreLength : Prop :=
  decode 0x24000000#32 = .ok .klen ∧
  ∀ s : State,
    (s.block.ksValid = true → exec .klen s = .next (answered s s.block (okWord s.block.ks.length))) ∧
    (s.block.ksValid = false → exec .klen s = .next (answered s s.block 0x02000000#32))

/-- R154: XPUSH appends on the right, or raises CapacityExceeded. -/
def Obligations.XpushAppendsOneInputBit : Prop :=
  decode 0x31000000#32 = .ok (.xpush false) ∧ decode 0x31000001#32 = .ok (.xpush true) ∧
  ∀ (s : State) (b : Bit),
    (s.block.x.length = Config.params.xmax →
      exec (.xpush b) s = .next (answered s s.block (errWord 0x05 Config.params.xmax))) ∧
    (s.block.x.length ≠ Config.params.xmax →
      exec (.xpush b) s = .next (answered s { s.block with x := s.block.x ++ [b] } 0x00000000#32))

/-- R155: XORC writes Y = combine(KS, X) and answers its length; with no store it raises KeystreamNotFound; in a state that meets the
invariant Y fits. ENC and DEC are its aliases. -/
def Obligations.XorcCombinesStoreAndInput : Prop :=
  decode 0x32000000#32 = .ok .xorc ∧ expand .enc = [.xorc] ∧ expand .dec = [.xorc] ∧
  ∀ s : State,
    (s.block.ksValid = true →
      exec .xorc s = .next (answered s { s.block with y := combine s.block.ks s.block.x }
        (okWord (max s.block.ks.length s.block.x.length)))) ∧
    (s.block.ksValid = false → exec .xorc s = .next (answered s s.block 0x02000000#32)) ∧
    (s.Inv → (combine s.block.ks s.block.x).length ≤ max Config.params.kmax Config.params.xmax)

/-- R173: MASKPX masks each channel with MASK_FN of the seed before the step, and steps the seed once; its two errors. EPX and
DPX are its aliases. -/
def Obligations.MaskpxMasksThenSteps : Prop :=
  ∀ r g b : Byte, decode (word 0x40 (r ++ g ++ b : BitVec (8 + 8 + 8))) = .ok (.maskpx r g b) ∧
    expand (.epx r g b) = [.maskpx r g b] ∧ expand (.dpx r g b) = [.maskpx r g b] ∧
    ∀ s : State,
      (∀ (first tapped : Bit) (rest : Bits) (m : Byte), s.block.seed = first :: rest →
        s.block.seed[s.block.tap.toNat]? = some tapped → m = Config.params.maskFn (val s.block.seed) →
        exec (.maskpx r g b) s = .next (answered s { s.block with seed := rest ++ [first ^^ tapped] }
          (okWord ((r ^^^ m).toNat * 2 ^ 16 + (g ^^^ m).toNat * 2 ^ 8 + (b ^^^ m).toNat)))) ∧
      (s.block.seed = [] → exec (.maskpx r g b) s = .next (answered s s.block 0x04000000#32)) ∧
      (s.block.seed ≠ [] → s.block.seed.length ≤ s.block.tap.toNat →
        exec (.maskpx r g b) s = .next (answered s s.block (errWord 0x01 s.block.tap.toNat)))

/-! ## Rules about every command -/

/-- R19, R55, R71, R204: a step on any command word answers a next state with exactly one response word, whose CODE is success or an
error the block may raise: never 0x03 and never a reserved code. -/
def Obligations.EveryCommandWordGetsOneResponse : Prop :=
  ∀ (s : State) (w : CommandWord) (rest : List Input), s.pending = .command w :: rest →
    ∃ t r, step s = .next t ∧ t.pending = rest ∧ t.responses = s.responses ++ [r] ∧
      codeField r ∈ [0x00#8, 0x01#8, 0x02#8, 0x04#8, 0x05#8, 0x06#8, 0x07#8]

/-- R209: a command word answered with an error changes nothing but the response sequence. -/
def Obligations.ErrorsWriteNoState : Prop :=
  ∀ (s t : State) (w : CommandWord) (rest : List Input) (r : ResponseWord), s.pending = .command w :: rest →
    step s = .next t → t.responses = s.responses ++ [r] → codeField r ≠ 0x00 →
    t = { block := s.block, pending := rest, responses := s.responses ++ [r] }

/-- R211: after an error the next command has the block and the response it would have had without the failing one. -/
def Obligations.ErrorsAreNotLatched : Prop :=
  ∀ (s t u : State) (w w' : CommandWord) (rest : List Input) (r : ResponseWord),
    s.pending = .command w :: .command w' :: rest →
    step s = .next t → t.responses = s.responses ++ [r] → codeField r ≠ 0x00 →
    step { block := s.block, pending := .command w' :: rest, responses := s.responses } = .next u →
    ∃ r', u.responses = s.responses ++ [r'] ∧
      step t = .next { block := u.block, pending := u.pending, responses := s.responses ++ [r, r'] }

/-- R210: which error is reported when several apply: an illegal word first; then MalformedSeed, InvalidTap, CapacityExceeded; or
KeystreamNotFound before the store's other errors. Every other command has at most one error. -/
def Obligations.FirstErrorInOrderIsReported : Prop :=
  (∀ (s : State) (w : CommandWord) (rest : List Input) (e : IllegalWord), s.pending = .command w :: rest → decode w = .error e →
    step s = .next { block := s.block, pending := rest, responses := s.responses ++ [errWord 0x06 (w.toNat / 2 ^ 24)] }) ∧
  (∀ (i : Instr) (s : State), usesSeedTap i →
    (s.block.seed = [] → exec i s = .next (answered s s.block 0x04000000#32)) ∧
    (s.block.seed ≠ [] → s.block.seed.length ≤ s.block.tap.toNat →
      exec i s = .next (answered s s.block (errWord 0x01 s.block.tap.toNat)))) ∧
  (∀ (n : Imm) (s : State), s.block.tap.toNat < s.block.seed.length →
    ∃ t, exec (.gen n) s = .next t ∧ t.responses = s.responses ++
      [if Config.params.kmax < n.toNat then errWord 0x05 Config.params.kmax else 0x00000000#32]) ∧
  (∀ (b : Bit) (n : Imm) (s : State), s.block.ksValid = false →
    exec (.kpush b) s = .next (answered s s.block 0x02000000#32) ∧
    exec (.krd n) s = .next (answered s s.block 0x02000000#32)) ∧
  (∀ (b : Bit) (n : Imm) (s : State), s.block.ksValid = true →
    (s.block.ks.length = Config.params.kmax →
      exec (.kpush b) s = .next (answered s s.block (errWord 0x05 Config.params.kmax))) ∧
    (s.block.ks.length ≤ n.toNat →
      exec (.krd n) s = .next (answered s s.block (errWord 0x07 s.block.ks.length)))) ∧
  ∀ i : Instr, ¬ usesSeedTap i → (∀ b, i ≠ .kpush b) → (∀ n, i ≠ .krd n) →
    ∃ code : Byte, ∀ s : State, ∃ t r, exec i s = .next t ∧ t.responses = s.responses ++ [r] ∧
      (codeField r = 0x00 ∨ codeField r = code)

/-- R202: exactly when InvalidTap is raised, and its DATA; SLEN then reads the width the tap was checked against. -/
def Obligations.InvalidTapExactlyWhenTapReachesTheWidth : Prop :=
  ∀ (i : Instr) (s t : State) (r : ResponseWord), exec i s = .next t → t.responses = s.responses ++ [r] →
    (codeField r = 0x01 ↔ usesSeedTap i ∧ 1 ≤ s.block.seed.length ∧ s.block.seed.length ≤ s.block.tap.toNat) ∧
    (codeField r = 0x01 → dataField r = s.block.tap ∧
      exec .slen t = .next (answered t t.block (okWord s.block.seed.length)))

/-- R203: exactly when KeystreamNotFound is raised; its DATA is 0; after reset XORC answers it and Y stays empty. -/
def Obligations.KeystreamNotFoundExactlyWithoutAStore : Prop :=
  (∀ (i : Instr) (s t : State) (r : ResponseWord), exec i s = .next t → t.responses = s.responses ++ [r] →
    (codeField r = 0x02 ↔
      (i = .xorc ∨ (∃ b, i = .kpush b) ∨ (∃ n, i = .krd n) ∨ i = .klen) ∧ s.block.ksValid = false) ∧
    (codeField r = 0x02 → dataField r = 0)) ∧
  (∀ (i : Instr) (s t : State) (r : ResponseWord), exec i s = .next t → t.responses = s.responses ++ [r] →
    s.block.ksValid = false →
    (t.block.ksValid = true ↔ codeField r = 0x00 ∧ ((∃ n, i = .gen n) ∨ i = .kclr))) ∧
  (∀ (i : Instr) (s t : State), exec i s = .next t → s.block.ksValid = true → (t.block.ksValid = false ↔ i = .clr)) ∧
  ∃ t, exec .xorc State.reset = .next t ∧ t.responses = [0x02000000#32] ∧ t.block.y = []

/-- R205: exactly when MalformedSeed is raised; its DATA is 0. -/
def Obligations.MalformedSeedExactlyOnAnEmptySeed : Prop :=
  ∀ (i : Instr) (s t : State) (r : ResponseWord), exec i s = .next t → t.responses = s.responses ++ [r] →
    (codeField r = 0x04 ↔ usesSeedTap i ∧ s.block.seed.length = 0) ∧ (codeField r = 0x04 → dataField r = 0)

/-- R206: exactly when CapacityExceeded is raised, and the capacity in DATA, in full (every capacity fits DATA). -/
def Obligations.CapacityExceededExactlyAtACapacity : Prop :=
  ∀ (i : Instr) (s t : State) (r : ResponseWord), exec i s = .next t → t.responses = s.responses ++ [r] →
    (codeField r = 0x05 ↔
      ((∃ b, i = .spush b) ∧ s.block.seed.length = Config.params.lmax) ∨
      ((∃ b, i = .kpush b) ∧ s.block.ksValid = true ∧ s.block.ks.length = Config.params.kmax) ∨
      ((∃ b, i = .xpush b) ∧ s.block.x.length = Config.params.xmax) ∨
      (∃ n, i = .gen n ∧ s.block.tap.toNat < s.block.seed.length ∧ Config.params.kmax < n.toNat)) ∧
    (codeField r = 0x05 →
      ((∃ b, i = .spush b) → (dataField r).toNat = Config.params.lmax) ∧
      ((∃ b, i = .kpush b) → (dataField r).toNat = Config.params.kmax) ∧
      ((∃ b, i = .xpush b) → (dataField r).toNat = Config.params.xmax) ∧
      ((∃ n, i = .gen n) → (dataField r).toNat = Config.params.kmax))

/-- R208: exactly when IndexOutOfRange is raised, and, in a state that meets the invariant, the indexed sequence's length in full in
DATA. -/
def Obligations.IndexOutOfRangeExactlyBeyondTheLength : Prop :=
  ∀ (i : Instr) (s t : State) (r : ResponseWord), exec i s = .next t → t.responses = s.responses ++ [r] →
    (codeField r = 0x07 ↔
      (∃ n, i = .srd n ∧ s.block.seed.length ≤ n.toNat) ∨
      (∃ n, i = .krd n ∧ s.block.ksValid = true ∧ s.block.ks.length ≤ n.toNat) ∨
      (∃ n, i = .yrd n ∧ s.block.y.length ≤ n.toNat)) ∧
    (codeField r = 0x07 → s.Inv →
      ((∃ n, i = .srd n) → (dataField r).toNat = s.block.seed.length) ∧
      ((∃ n, i = .krd n) → (dataField r).toNat = s.block.ks.length) ∧
      ((∃ n, i = .yrd n) → (dataField r).toNat = s.block.y.length))

/-- R57: the eight read commands write no state, whether they succeed or fail, and repeating one gives the same response. -/
def Obligations.ReadsHaveNoSideEffects : Prop :=
  ∀ (i : Instr) (s : State),
    (∃ n, i = .srd n) ∨ i = .slen ∨ i = .taprd ∨ (∃ n, i = .krd n) ∨ i = .klen ∨ (∃ n, i = .yrd n) ∨ i = .ylen ∨ i = .schk →
    ∃ r, exec i s = .next (answered s s.block r) ∧
      exec i (answered s s.block r) = .next (answered (answered s s.block r) s.block r)

/-- R22: the seed's width changes only by SCLR (to 0), by SPUSH (by one, when it succeeds), by CLR and by reset (to 0). -/
def Obligations.SeedWidthChangesOnlyByItsCommands : Prop :=
  (∀ (i : Instr) (s t : State), exec i s = .next t →
    (i = .sclr ∨ i = .clr → t.block.seed.length = 0) ∧
    ((∃ b, i = .spush b) → t.block.seed.length = s.block.seed.length + 1 ∨ t.block = s.block) ∧
    (i ≠ .sclr → i ≠ .clr → (∀ b, i ≠ .spush b) → t.block.seed.length = s.block.seed.length)) ∧
  ∀ (s : State) (rest : List Input), s.pending = .reset :: rest →
    ∃ t, step s = .next t ∧ t.block.seed.length = 0

/-- R23 to R26, R30: the frame of every command, component by component: a command changes no component but those it is listed as a
writer of, and neither the host's pending inputs nor any earlier response. -/
def Obligations.OnlyListedCommandsWriteAComponent : Prop :=
  ∀ (i : Instr) (s t : State), exec i s = .next t →
    (i ≠ .sclr → (∀ b, i ≠ .spush b) → i ≠ .step → (∀ n, i ≠ .gen n) → (∀ r g b, i ≠ .maskpx r g b) → i ≠ .clr →
      t.block.seed = s.block.seed) ∧
    ((∀ u, i ≠ .stap u) → i ≠ .clr → t.block.tap = s.block.tap) ∧
    ((∀ n, i ≠ .gen n) → i ≠ .kclr → i ≠ .clr → t.block.ksValid = s.block.ksValid) ∧
    ((∀ n, i ≠ .gen n) → i ≠ .kclr → (∀ b, i ≠ .kpush b) → i ≠ .clr → t.block.ks = s.block.ks) ∧
    (i ≠ .xclr → (∀ b, i ≠ .xpush b) → i ≠ .clr → t.block.x = s.block.x) ∧
    (i ≠ .xorc → i ≠ .clr → t.block.y = s.block.y) ∧
    t.pending = s.pending ∧ ∃ r, t.responses = s.responses ++ [r]

/-- R25, R30: X is write-only from the host: two states that differ in X only give the same response to every command but XORC and
XPUSH, and then again differ in X only. -/
def Obligations.InputBitsAreNotReadBack : Prop :=
  ∀ (i : Instr) (s t : State) (x : Bits), i ≠ .xorc → (∀ b, i ≠ .xpush b) → exec i s = .next t →
    ∃ u, exec i { s with block := { s.block with x := x } } = .next u ∧
      u.responses = t.responses ∧ u.pending = t.pending ∧ { u.block with x := t.block.x } = t.block

/-! ## The invariant -/

/-- R24, R30, R31: the reset state meets the invariant. -/
def Obligations.ResetMeetsTheInvariant : Prop :=
  State.reset.Inv

/-- R20, R24, R30: from every state that meets the invariant, reachable or not, a step on any input gives a state that meets it. -/
def Obligations.EveryStepKeepsTheInvariant : Prop :=
  ∀ s t : State, s.Inv → step s = .next t → t.Inv

/-- R6 to R8, R14, R20: the implementation's parameters lie in their bounds, and in a state that meets the invariant every length fits a
DATA field, so no length read is cut. -/
def Obligations.LengthsFitTheDataField : Prop :=
  Config.params.Wf ∧
  ∀ s : State, s.Inv →
    (BitVec.ofNat 24 s.block.seed.length).toNat = s.block.seed.length ∧
    (BitVec.ofNat 24 s.block.ks.length).toNat = s.block.ks.length ∧
    (BitVec.ofNat 24 s.block.x.length).toNat = s.block.x.length ∧
    (BitVec.ofNat 24 s.block.y.length).toNat = s.block.y.length

/-! ## The engine and the keystream -/

/-- R101, R105: the step function, its output bit, and the width-1 case. -/
def Obligations.StepFunctionShiftsLeft : Prop :=
  (∀ (s : Bits) (t : Nat) (first tapped : Bit), s[0]? = some first → s[t]? = some tapped →
    feedback s t = (first ^^ tapped) ∧ stepSeed s t = s.tail ++ [feedback s t] ∧
    (stepSeed s t).length = s.length ∧ (stepSeed s t)[s.length - 1]? = some (feedback s t)) ∧
  ∀ b : Bit, (∀ t, t < [b].length → t = 0) ∧ feedback [b] 0 = false ∧ stepSeed [b] 0 = [false]

/-- R104: with tap 0 every output bit is 0 from the first step on, and the seed after k steps is S[k..L−1] ++ 0^k, or 0^L from L steps
on; tap 0 is no error: SCHK and STEP answer success. -/
def Obligations.TapZeroShiftsInZeros : Prop :=
  (∀ (s : Bits) (k : Nat), s ≠ [] →
    feedback (trajectory s 0 k) 0 = false ∧
    (k ≤ s.length → trajectory s 0 k = s.drop k ++ List.replicate k false) ∧
    (s.length ≤ k → trajectory s 0 k = List.replicate s.length false)) ∧
  ∀ s : State, s.block.seed ≠ [] → s.block.tap = 0 →
    exec .schk s = .next (answered s s.block 0x00000000#32) ∧
    exec .step s = .next (answered s { s.block with seed := s.block.seed.tail ++ [false] } 0x00000000#32)

/-- R106: every seed of a trajectory keeps the width, so a legal tap stays legal, and each output bit is the last bit of the next
seed. -/
def Obligations.TrajectoryKeepsTheWidth : Prop :=
  ∀ (s : Bits) (t k : Nat), t < s.length →
    trajectory s t 0 = s ∧ trajectory s t (k + 1) = stepSeed (trajectory s t k) t ∧
    (trajectory s t k).length = s.length ∧
    (trajectory s t (k + 1))[s.length - 1]? = some (feedback (trajectory s t k) t)

/-- R15: `val` is the sum of the rule. -/
def Obligations.ValIsThePositionalSum : Prop :=
  ∀ s : Bits, val s = ∑ i ∈ Finset.range s.length, (s.getD i false).toNat * 2 ^ (s.length - 1 - i)

/-- R115: a step doubles the seed's value modulo 2^L and adds the feedback; in the value's binary form S[0] is bit L−1 and S[t] is bit
L−1−t. -/
def Obligations.StepIsALeftShiftOfTheValue : Prop :=
  ∀ (s : Bits) (t : Nat) (first tapped : Bit), s[0]? = some first → s[t]? = some tapped →
    val (stepSeed s t) = (2 * val s) % 2 ^ s.length + (feedback s t).toNat ∧
    (val s).testBit (s.length - 1) = first ∧ (val s).testBit (s.length - 1 - t) = tapped

/-- R137: the seed after N steps is the window N .. N+L−1 of the seed followed by its keystream. -/
def Obligations.SeedAfterNStepsIsAWindow : Prop :=
  ∀ (s : Bits) (t n : Nat), t < s.length →
    trajectory s t n = ((s ++ keystream s t n).drop n).take s.length

/-- R138: keystream generation composes; so GEN N and then GEN M, the seed not reloaded, leaves in KS the bits N+1 .. N+M of the longer
run. -/
def Obligations.KeystreamGenerationComposes : Prop :=
  (∀ (s : Bits) (t n m : Nat), t < s.length →
    keystream s t n ++ keystream (trajectory s t n) t m = keystream s t (n + m)) ∧
  ∀ (s u v : State) (n m : Imm), s.block.tap.toNat < s.block.seed.length →
    n.toNat ≤ Config.params.kmax → m.toNat ≤ Config.params.kmax →
    exec (.gen n) s = .next u → exec (.gen m) u = .next v →
    v.block.ks = (keystream s.block.seed s.block.tap.toNat (n.toNat + m.toNat)).drop n.toNat

/-- R139: GEN N leaves the seed that N STEP commands leave, and the keystream it writes is the sequence of their response bits; the STEP
commands write nothing else. -/
def Obligations.GenIsNStepCommands : Prop :=
  ∀ (p : Params) (n : Imm) (b : Block), b.tap.toNat < b.seed.length → n.toNat ≤ p.kmax →
    ∃ (seed ks : Bits),
      transactAll p (List.replicate n.toNat (encode .step)) b =
        ({ b with seed := seed }, ks.map fun bit => okWord bit.toNat) ∧
      transact p (encode (.gen n)) b = ({ b with seed := seed, ks := ks, ksValid := true }, 0x00000000#32)

/-! ## The combiner -/

/-- R150 to R152: `combine` has the longer operand's length M, and at each index it is the XOR of the operands after padding on the left
with zeros to M. -/
def Obligations.CombineIsPositionwiseXor : Prop :=
  ∀ k x : Bits,
    (combine k x).length = max k.length x.length ∧
    ∀ i, i < max k.length x.length →
      let padded := fun (s : Bits) =>
        if i < max k.length x.length - s.length then some false else s[i - (max k.length x.length - s.length)]?
      ∃ a b, padded k = some a ∧ padded x = some b ∧ (combine k x)[i]? = some (a ^^ b)

/-- R158: combining twice with the same keystream gives the input back, left-padded to the longer length; the input itself when it is not
the shorter. -/
def Obligations.CombineIsSelfInverse : Prop :=
  ∀ k x : Bits,
    combine k (combine k x) = List.replicate (max k.length x.length - x.length) false ++ x ∧
    (k.length ≤ x.length → combine k (combine k x) = x)

/-- R160: the two strings are aligned at their right ends; combine is symmetric, and an empty operand leaves the other. -/
def Obligations.CombineAlignsAtTheRight : Prop :=
  ∀ k x : Bits,
    (∀ j, j < max k.length x.length →
      (combine k x)[max k.length x.length - 1 - j]? = some (k.reverse.getD j false ^^ x.reverse.getD j false)) ∧
    combine k x = combine x k ∧ combine k [] = k ∧ combine [] x = x

/-! ## The image procedure -/

/-- R175: in MASK_IMAGE the pixel at row r, column c of an image of width W is masked, in each channel, with MASK_FN of the value of
S_(r·W+c), whatever the pixels are; the seed ends at S_(H·W). -/
def Obligations.ImageMasksFollowTheTrajectory : Prop :=
  ∀ (p : Params) (b : Block) (image : List (List Pixel)) (width : Nat) (s : Bits) (t : Imm),
    s.length ≤ p.lmax → t.toNat < s.length → (∀ row ∈ image, row.length = width) →
    ∃ out, maskImage p image s t b =
        ({ b with seed := trajectory s t.toNat (image.length * width), tap := t }, .ok out) ∧
      out.map List.length = image.map List.length ∧
      ∀ (r c : Nat) (px : Pixel), (image[r]?.bind fun row => row[c]?) = some px →
        (out[r]?.bind fun row => row[c]?) =
          some ⟨px.r ^^^ p.maskFn (val (trajectory s t.toNat (r * width + c))),
                px.g ^^^ p.maskFn (val (trajectory s t.toNat (r * width + c))),
                px.b ^^^ p.maskFn (val (trajectory s t.toNat (r * width + c)))⟩

/-- R176: masking the masked image with the same seed and tap gives the image back, for every MASK_FN. -/
def Obligations.ImageRoundTrips : Prop :=
  ∀ (p : Params) (b b' : Block) (image out : List (List Pixel)) (s : Bits) (t : Imm),
    s.length ≤ p.lmax → maskImage p image s t b = (b', .ok out) →
    (maskImage p out s t b').2 = .ok image

/-- R177: MASK_IMAGE either ends at its SCHK, with that error, the seed and tap loaded and no pixel masked, or masks every pixel: after
a successful SCHK no MASKPX fails. -/
def Obligations.ImageMaskingIsAllOrNothing : Prop :=
  (∀ (p : Params) (b : Block) (image : List (List Pixel)) (s : Bits) (t : Imm), s.length ≤ p.lmax →
    (s = [] → maskImage p image s t b = ({ b with seed := s, tap := t }, .error 0x04000000#32)) ∧
    (s ≠ [] → s.length ≤ t.toNat →
      maskImage p image s t b = ({ b with seed := s, tap := t }, .error (errWord 0x01 t.toNat))) ∧
    (t.toNat < s.length → ∃ out, (maskImage p image s t b).2 = .ok out ∧ out.map List.length = image.map List.length)) ∧
  ∀ (p : Params) (b : Block) (pixels : List Pixel), b.tap.toNat < b.seed.length →
    ∀ r ∈ (transactAll p (pixels.map fun px => encode (.maskpx px.r px.g px.b)) b).2, codeField r = 0x00

/-! ## The assembler and the host boundary -/

/-- R51, R80, R159, R178: the pseudo-instructions' expansions; the loads leave exactly the literal's bits, leftmost at index 0, up to the
capacity; ENC and DEC are one command, and so are EPX and DPX. -/
def Obligations.PseudoInstructionsExpandAndLoad : Prop :=
  (expand .enc = [.xorc] ∧ expand .dec = [.xorc] ∧
    (∀ r g b, expand (.epx r g b) = [.maskpx r g b] ∧ expand (.dpx r g b) = [.maskpx r g b]) ∧
    (∀ s t n, expand (.genks s t n) = expand (.ldseed s) ++ [.stap t, .gen n]) ∧
    (∀ s, expand (.ldseed s) = .sclr :: s.map .spush) ∧ (∀ k, expand (.ldks k) = .kclr :: k.map .kpush) ∧
    (∀ x, expand (.ldx x) = .xclr :: x.map .xpush) ∧ expand (.ldseed []) = [.sclr]) ∧
  ∀ (p : Params) (b : Block) (s : Bits),
    (s.length ≤ p.lmax → transactAll p ((expand (.ldseed s)).map encode) b =
      ({ b with seed := s }, List.replicate (s.length + 1) 0x00000000#32)) ∧
    (s.length ≤ p.kmax → transactAll p ((expand (.ldks s)).map encode) b =
      ({ b with ks := s, ksValid := true }, List.replicate (s.length + 1) 0x00000000#32)) ∧
    (s.length ≤ p.xmax → transactAll p ((expand (.ldx s)).map encode) b =
      ({ b with x := s }, List.replicate (s.length + 1) 0x00000000#32))

/-- R63, R216: the host's conversions: the text of a bit sequence reads back as it; a bad or empty seed text, a bad input text, a tap
that cannot be sent and a missing image are the host's own errors. -/
def Obligations.HostConversionsAndErrors : Prop :=
  (∀ s : Bits, s ≠ [] → seedOfText (textOfBits s) = .ok s) ∧
  (∀ x : Bits, inputOfText (textOfBits x) = .ok x) ∧
  (∀ text : List Char, (text = [] ∨ ∃ c ∈ text, c ≠ '0' ∧ c ≠ '1') → seedOfText text = .error .malformedSeed) ∧
  (∀ text : List Char, (∃ c ∈ text, c ≠ '0' ∧ c ≠ '1') → inputOfText text = .error .malformedBitString) ∧
  (∀ t : Int, (t < 0 ∨ 2 ^ 24 ≤ t) → tapOfInt t = .error .invalidTap) ∧
  (∀ u : Imm, tapOfInt u.toNat = .ok u) ∧
  ∀ path : List Char, imageOfPath (α := List (List Pixel)) path none = .error (.imageNotFound path)

/-- R72, R73, R79: the assembler takes an operand exactly when it fits its field, and then it is the number written. -/
def Obligations.AssemblerOperandsFitTheirFields : Prop :=
  (∀ n : Nat, ∀ row ∈ [("STAP", Instr.stap), ("SRD", Instr.srd), ("GEN", Instr.gen), ("KRD", Instr.krd), ("YRD", Instr.yrd)],
    (n < 2 ^ 24 → ∃ u : Imm, u.toNat = n ∧ Instr.ofOperands? row.1 [n] = some (row.2 u)) ∧
    (2 ^ 24 ≤ n → Instr.ofOperands? row.1 [n] = none)) ∧
  (∀ n : Nat, ∀ row ∈ [("SPUSH", Instr.spush), ("KPUSH", Instr.kpush), ("XPUSH", Instr.xpush)],
    (n < 2 → ∃ b : Bit, b.toNat = n ∧ Instr.ofOperands? row.1 [n] = some (row.2 b)) ∧
    (2 ≤ n → Instr.ofOperands? row.1 [n] = none)) ∧
  ∀ r g b : Nat,
    (r < 256 → g < 256 → b < 256 → ∃ r' g' b' : Byte, r'.toNat = r ∧ g'.toNat = g ∧ b'.toNat = b ∧
      Instr.ofOperands? "MASKPX" [r, g, b] = some (.maskpx r' g' b')) ∧
    (256 ≤ r ∨ 256 ≤ g ∨ 256 ≤ b → Instr.ofOperands? "MASKPX" [r, g, b] = none)

/-! ## The machine, the function of rule R18, and the ports -/

/-- R18, R19, R59: a run of the machine over the host's command words is the function of rule R18 applied to them in order: the same final
block, the same sequence of responses, and no stop. -/
def Obligations.RunIsTheSequenceOfTransactions : Prop :=
  ∀ (s : State) (ws : List CommandWord) (rest : List Input), s.pending = ws.map .command ++ rest →
    Host.Core.run Sys2Proof.core ws.length s =
      .next (σ := State) { block := (transactAll Config.params ws s.block).1, pending := rest,
                           responses := s.responses ++ (transactAll Config.params ws s.block).2 }

/-- R64: over any run of clock cycles without a reset, from idle ports, whatever the latencies and the handshakes: the responses delivered
are, in order, those of the transaction level on the commands accepted, at most one command is in flight, and with none in flight
nothing is missing and the block is the transaction level's. That `cmd_ready` is 1 whenever none is in flight is log entry 14. -/
def Obligations.PortsRefineTheTransactionLevel : Prop :=
  ∀ (p : Params) (cycles : List PortIn) (b : Block), (∀ i ∈ cycles, i.rst = false) →
    let words := acceptedAll p cycles ⟨b, .idle⟩
    let final := clockAll p cycles ⟨b, .idle⟩
    let delivered := deliveredAll p cycles ⟨b, .idle⟩
    delivered <+: (transactAll p words b).2 ∧ words.length ≤ delivered.length + 1 ∧
    (final.cmdReady = true → delivered = (transactAll p words b).2 ∧ final.block = (transactAll p words b).1)

/-- R16, R56, R64, R232: a reset cycle aborts a command in progress: in that cycle nothing is accepted or delivered, and the ports then
stand as after reset, so that nothing of the command is ever delivered or written; until it completes, a command has written nothing and
delivers nothing. Two points are the model's choice, both log entry 8: that a reset cycle accepts and delivers nothing; and that a
command's writes, which R16 and R56 make together, are made in the cycle that completes it and not before. -/
def Obligations.PortResetAbortsTheCommand : Prop :=
  ∀ (p : Params) (s : PortState) (i : PortIn),
    (i.rst = true → delivered? s i = none ∧ accepted? s i = none ∧ clock p s i = ⟨State.reset.block, .idle⟩ ∧
      ∀ cycles, deliveredAll p (i :: cycles) s = deliveredAll p cycles PortState.reset ∧
        clockAll p (i :: cycles) s = clockAll p cycles PortState.reset) ∧
    (∀ w left, i.rst = false → s.phase = .busy w (left + 1) → (clock p s i).block = s.block ∧ delivered? s i = none) ∧
    (∀ w left, s.phase = .busy w left → delivered? s i = none) ∧
    (i.rst = false → (∀ r, (clock p s i).phase ≠ .responding r) → (clock p s i).block = s.block)
end

