-- ==== Sys2Proof/Laws/Config.lean ====
section
/-! SUPPORT. The implementation's parameters lie in the bounds of rules R6 to R8, whatever they are. -/

namespace Sys2Proof

theorem params_lmax_pos : 1 ≤ Config.params.lmax := Nat.succ_le_succ (Nat.zero_le _)

theorem params_lmax_lt : Config.params.lmax < 2 ^ 24 := by
  have := Config.lmaxLessOne.isLt
  simp only [Config.params]
  omega

theorem params_kmax_lt : Config.params.kmax < 2 ^ 24 := Config.kmax.isLt

theorem params_xmax_lt : Config.params.xmax < 2 ^ 24 := Config.xmax.isLt

end Sys2Proof
end

