-- ==== Sys2Proof/Laws/Decode.lean ====
section
/-! SUPPORT. The fields of a word put together from its fields, and the fields' values. -/

namespace Sys2Proof

open Sys2Proof.Machine

@[simp] theorem opField_commandWord (op : Byte) (imm : Imm) : opField (commandWord op imm) = op := by
  have h : (op ++ imm : BitVec (8 + 24)).extractLsb' 24 8 = op := BitVec.extractLsb'_append_eq_left
  exact h

@[simp] theorem immField_commandWord (op : Byte) (imm : Imm) : immField (commandWord op imm) = imm := by
  have h : (op ++ imm : BitVec (8 + 24)).extractLsb' 0 24 = imm := BitVec.extractLsb'_append_eq_right
  exact h

theorem opField_toNat (w : CommandWord) : (opField w).toNat = w.toNat / 2 ^ 24 := by
  have := w.isLt
  simp only [opField, BitVec.extractLsb'_toNat, Nat.shiftRight_eq_div_pow]
  omega

theorem immField_toNat (w : CommandWord) : (immField w).toNat = w.toNat % 2 ^ 24 := by
  simp [immField]

theorem commandWord_toNat (op : Byte) (imm : Imm) :
    (commandWord op imm).toNat = op.toNat * 2 ^ 24 + imm.toNat := by
  have h : (op ++ imm : BitVec (8 + 24)).toNat = op.toNat * 2 ^ 24 + imm.toNat := by
    rw [BitVec.toNat_append, ← Nat.shiftLeft_add_eq_or_of_lt imm.isLt, Nat.shiftLeft_eq]
  exact h

/-- A word is its OP and IMM fields (R70). -/
theorem commandWord_fields (w : CommandWord) : commandWord (opField w) (immField w) = w := by
  apply BitVec.eq_of_toNat_eq
  rw [commandWord_toNat, opField_toNat, immField_toNat]
  omega

theorem pixelField_toNat (r g b : Byte) :
    (pixelField r g b).toNat = r.toNat * 2 ^ 16 + g.toNat * 2 ^ 8 + b.toNat := by
  have h : (r ++ g ++ b : BitVec (8 + 8 + 8)).toNat = r.toNat * 2 ^ 16 + g.toNat * 2 ^ 8 + b.toNat := by
    rw [BitVec.toNat_append, ← Nat.shiftLeft_add_eq_or_of_lt b.isLt, Nat.shiftLeft_eq,
      BitVec.toNat_append, ← Nat.shiftLeft_add_eq_or_of_lt g.isLt, Nat.shiftLeft_eq]
    omega
  exact h

theorem redField_toNat (w : CommandWord) : (redField w).toNat = w.toNat / 2 ^ 16 % 2 ^ 8 := by
  simp only [redField, BitVec.extractLsb'_toNat, Nat.shiftRight_eq_div_pow]

theorem greenField_toNat (w : CommandWord) : (greenField w).toNat = w.toNat / 2 ^ 8 % 2 ^ 8 := by
  simp only [greenField, BitVec.extractLsb'_toNat, Nat.shiftRight_eq_div_pow]

theorem blueField_toNat (w : CommandWord) : (blueField w).toNat = w.toNat % 2 ^ 8 := by
  simp [blueField]

/-- The three channels of a format P word (R72). -/
theorem channels_commandWord (op r g b : Byte) :
    redField (commandWord op (pixelField r g b)) = r ∧ greenField (commandWord op (pixelField r g b)) = g ∧
      blueField (commandWord op (pixelField r g b)) = b := by
  have hr := r.isLt
  have hg := g.isLt
  have hb := b.isLt
  refine ⟨BitVec.eq_of_toNat_eq ?_, BitVec.eq_of_toNat_eq ?_, BitVec.eq_of_toNat_eq ?_⟩
  · rw [redField_toNat, commandWord_toNat, pixelField_toNat]; omega
  · rw [greenField_toNat, commandWord_toNat, pixelField_toNat]; omega
  · rw [blueField_toNat, commandWord_toNat, pixelField_toNat]; omega

theorem tableWord_full (w : CommandWord) : tableWord 32 w.toNat = w := by
  rw [tableWord, Nat.mod_eq_of_lt w.isLt, BitVec.ofNat_toNat, BitVec.setWidth_eq]

end Sys2Proof
end

