-- ==== Sys2Proof/Laws/State.lean ====
section
/-! SUPPORT. One lemma per field per update of the state. -/

namespace Sys2Proof.Machine

variable (s : State) (b : Block) (r : Result)

@[simp] theorem Result.block_respond (c : Block) (d : Imm) : (Result.respond c d).block b = c := rfl
@[simp] theorem Result.block_raise (e : Error) (d : Imm) : (Result.raise e d).block b = b := rfl
@[simp] theorem Result.word_respond (c : Block) (d : Imm) : (Result.respond c d).word = responseWord 0x00 d := rfl
@[simp] theorem Result.word_raise (e : Error) (d : Imm) : (Result.raise e d).word = responseWord e.code d := rfl

@[simp] theorem State.answer_block : (s.answer r).block = r.block s.block := rfl
@[simp] theorem State.answer_pending : (s.answer r).pending = s.pending := rfl
@[simp] theorem State.answer_responses : (s.answer r).responses = s.responses ++ [r.word] := rfl

@[simp] theorem State.externalReset_block : s.externalReset.block = Block.reset := rfl
@[simp] theorem State.externalReset_pending : s.externalReset.pending = s.pending := rfl
@[simp] theorem State.externalReset_responses : s.externalReset.responses = s.responses := rfl

@[simp] theorem State.withFetchWord_block (n w : Nat) : (s.withFetchWord n w).block = s.block := rfl
@[simp] theorem State.withFetchWord_pending (n w : Nat) :
    (s.withFetchWord n w).pending = .command (tableWord n w) :: s.pending := rfl
@[simp] theorem State.withFetchWord_responses (n w : Nat) : (s.withFetchWord n w).responses = s.responses := rfl

@[simp] theorem State.reset_block : State.reset.block = Block.reset := rfl
@[simp] theorem State.reset_pending : State.reset.pending = [] := rfl
@[simp] theorem State.reset_responses : State.reset.responses = [] := rfl

@[simp] theorem Block.reset_seed : Block.reset.seed = [] := rfl
@[simp] theorem Block.reset_tap : Block.reset.tap = 0 := rfl
@[simp] theorem Block.reset_ksValid : Block.reset.ksValid = false := rfl
@[simp] theorem Block.reset_ks : Block.reset.ks = [] := rfl
@[simp] theorem Block.reset_x : Block.reset.x = [] := rfl
@[simp] theorem Block.reset_y : Block.reset.y = [] := rfl

@[simp] theorem codeField_responseWord (c : Byte) (d : Imm) : codeField (responseWord c d) = c := by
  have h : (c ++ d : BitVec (8 + 24)).extractLsb' 24 8 = c := BitVec.extractLsb'_append_eq_left
  exact h

@[simp] theorem dataField_responseWord (c : Byte) (d : Imm) : dataField (responseWord c d) = d := by
  have h : (c ++ d : BitVec (8 + 24)).extractLsb' 0 24 = d := BitVec.extractLsb'_append_eq_right
  exact h

/-- Taking an input is taking the head of `pending`. -/
theorem State.takeInput_nil (h : s.pending = []) : s.takeInput = none := by
  simp [State.takeInput, h]

theorem State.takeInput_cons {i : Input} {rest : List Input} (h : s.pending = i :: rest) :
    s.takeInput = some (i, { s with pending := rest }) := by
  simp [State.takeInput, h]

end Sys2Proof.Machine
end

