-- ==== Sys2Proof/Laws/Ops.lean ====
section
/-! SUPPORT. Each shared operation, once: everything it can do. -/

namespace Sys2Proof.Machine

theorem readBit_of_getElem? {q : Bits} {i : Imm} {b : Block} {v : Bit} (h : q[i.toNat]? = some v) :
    readBit q i b = .respond b (dataOfBit v) := by
  obtain ⟨hi, rfl⟩ := List.getElem?_eq_some_iff.1 h
  simp [readBit, hi]

theorem readBit_of_le {q : Bits} {i : Imm} {b : Block} (h : q.length ≤ i.toNat) :
    readBit q i b = .raise .indexOutOfRange (zext24 q.length) := by
  simp [readBit, Nat.not_lt.2 h]

/-- Reading one bit responds with a bit and the block as it was, or raises IndexOutOfRange with the length. -/
theorem readBit_cases (q : Bits) (i : Imm) (b : Block) :
    (∃ v, q[i.toNat]? = some v ∧ readBit q i b = .respond b (dataOfBit v)) ∨
      (q.length ≤ i.toNat ∧ readBit q i b = .raise .indexOutOfRange (zext24 q.length)) := by
  by_cases h : i.toNat < q.length
  · exact .inl ⟨q[i.toNat], List.getElem?_eq_getElem h, readBit_of_getElem? (List.getElem?_eq_getElem h)⟩
  · exact .inr ⟨Nat.le_of_not_lt h, readBit_of_le (Nat.le_of_not_lt h)⟩

theorem pushBit_of_full {q : Bits} {cap : Nat} {b : Block} (h : q.length = cap) :
    pushBit q cap b = .raise .capacityExceeded (zext24 cap) := by
  simp [pushBit, h]

theorem pushBit_of_room {q : Bits} {cap : Nat} {b : Block} (h : q.length ≠ cap) :
    pushBit q cap b = .respond b 0 := by
  simp [pushBit, h]

/-- An append raises CapacityExceeded at the capacity, and otherwise responds 0 with the longer sequence. -/
theorem pushBit_cases (q : Bits) (cap : Nat) (b : Block) :
    (q.length = cap ∧ pushBit q cap b = .raise .capacityExceeded (zext24 cap)) ∨
      (q.length ≠ cap ∧ pushBit q cap b = .respond b 0) := by
  by_cases h : q.length = cap
  · exact .inl ⟨h, pushBit_of_full h⟩
  · exact .inr ⟨h, pushBit_of_room h⟩

theorem checkSeedTap_of_lt {b : Block} {r : Result} (h : b.tap.toNat < b.seed.length) : checkSeedTap b r = r := by
  have h0 : b.seed.length ≠ 0 := by omega
  simp [checkSeedTap, List.length_eq_zero_iff.not.1 h0, Nat.not_le.2 h]

theorem checkSeedTap_of_empty {b : Block} {r : Result} (h : b.seed = []) :
    checkSeedTap b r = .raise .malformedSeed 0 := by
  simp [checkSeedTap, h]

theorem checkSeedTap_of_le {b : Block} {r : Result} (h : b.seed ≠ []) (ht : b.seed.length ≤ b.tap.toNat) :
    checkSeedTap b r = .raise .invalidTap b.tap := by
  simp [checkSeedTap, h, ht]

/-- The check of rule R102 has three ends: an empty seed, a tap beyond the width, or the rest of the command. -/
theorem checkSeedTap_cases (b : Block) (r : Result) :
    (b.seed = [] ∧ checkSeedTap b r = .raise .malformedSeed 0) ∨
      (b.seed ≠ [] ∧ b.seed.length ≤ b.tap.toNat ∧ checkSeedTap b r = .raise .invalidTap b.tap) ∨
      (b.tap.toNat < b.seed.length ∧ checkSeedTap b r = r) := by
  by_cases h : b.seed = []
  · exact .inl ⟨h, checkSeedTap_of_empty h⟩
  · by_cases ht : b.seed.length ≤ b.tap.toNat
    · exact .inr (.inl ⟨h, ht, checkSeedTap_of_le h ht⟩)
    · exact .inr (.inr ⟨Nat.lt_of_not_le ht, checkSeedTap_of_lt (Nat.lt_of_not_le ht)⟩)

theorem checkStore_of_valid {b : Block} {r : Result} (h : b.ksValid = true) : checkStore b r = r := by
  simp [checkStore, h]

theorem checkStore_of_missing {b : Block} {r : Result} (h : b.ksValid = false) :
    checkStore b r = .raise .keystreamNotFound 0 := by
  simp [checkStore, h]

/-- The check of rule R203 has two ends: no store, or the rest of the command. -/
theorem checkStore_cases (b : Block) (r : Result) :
    (b.ksValid = false ∧ checkStore b r = .raise .keystreamNotFound 0) ∨ (b.ksValid = true ∧ checkStore b r = r) := by
  cases h : b.ksValid
  · exact .inl ⟨rfl, checkStore_of_missing h⟩
  · exact .inr ⟨rfl, checkStore_of_valid h⟩

/-- The feedback where rule R100 defines it. -/
theorem feedback_of_getElem? {s : Bits} {t : Nat} {first tapped : Bit} (h0 : s[0]? = some first)
    (ht : s[t]? = some tapped) : feedback s t = (first ^^ tapped) := by
  obtain ⟨_, rfl⟩ := List.getElem?_eq_some_iff.1 h0
  obtain ⟨hi, rfl⟩ := List.getElem?_eq_some_iff.1 ht
  simp [feedback, hi]

/-- A step keeps the width of a seed that is not empty (R101). -/
theorem stepSeed_length {s : Bits} (t : Nat) (h : s ≠ []) : (stepSeed s t).length = s.length := by
  have := List.length_pos_iff.2 h
  simp only [stepSeed, List.length_append, List.length_drop, List.length_singleton]
  omega

end Sys2Proof.Machine
end

