-- ==== Sys2Proof/Laws/Exec.lean ====
section
/-! SUPPORT. What `exec` and `step` can do, said once: `exec` always answers the host with the command's result. -/

namespace Sys2Proof.Machine

/-- Every command ends in a next state: the block updated and one response delivered. -/
theorem exec_eq_answer (i : Instr) (s : State) :
    exec i s = .next (s.answer (resultOf Config.params i s.block)) := by
  cases i <;> rfl

/-- The inversion of `exec`. -/
theorem exec_next_inv {i : Instr} {s t : State} (h : exec i s = .next t) :
    t = s.answer (resultOf Config.params i s.block) := by
  rw [exec_eq_answer] at h
  exact (Host.Outcome.next.inj h).symm

/-- A step on a command word answers with the word's result. -/
theorem step_command {s : State} {w : CommandWord} {rest : List Input} (h : s.pending = .command w :: rest) :
    step s = .next ({ s with pending := rest }.answer (resultOfWord Config.params w s.block)) := by
  simp only [step, State.takeInput_cons s h, resultOfWord]
  cases decode w with
  | ok i => exact exec_eq_answer i _
  | error e => rfl

theorem step_idle {s : State} (h : s.pending = []) : step s = .next s := by
  simp [step, State.takeInput_nil s h]

theorem step_reset {s : State} {rest : List Input} (h : s.pending = .reset :: rest) :
    step s = .next { s with block := Block.reset, pending := rest } := by
  simp [step, State.takeInput_cons s h, State.externalReset]

/-- A run of the machine, one step at a time. -/
theorem core_run_next {k : Nat} {s s' : State} (h : step s = .next s') :
    Host.Core.run Sys2Proof.core (k + 1) s = Host.Core.run Sys2Proof.core k s' := by
  have run_next : ∀ (M : Host.Core) (a b : M.State), M.step a = .next b → M.run (k + 1) a = M.run k b := by
    intro M a b hab
    rw [Host.Core.run, hab]
  exact run_next Sys2Proof.core s s' h

end Sys2Proof.Machine
end

