-- ==== Sys2Proof/Laws/PerInstr.lean ====
section
/-! SUPPORT. The family EncodeRow: the word of every command selects a row of rule R74's table with the command's mnemonic. -/

namespace Sys2Proof.Laws.EncodeRow

open Sys2Proof Sys2Proof.Machine

/-- The word of `i` selects `row`: its OP is the row's, `word AND mask` is the row's pattern (R74), and the mnemonic is the row's. -/
def Selects (i : Instr) (row : OpRow) : Prop :=
  opField (encode i) = row.op ∧ encode i &&& row.mask = row.pattern ∧ i.mnemonic = row.mnemonic

/-- The family's statement. -/
def Statement (i : Instr) : Prop := ∃ row ∈ opcodeMap, Selects i row

/-- A word under the mask that keeps OP only (formats U and P). -/
theorem and_op_mask (op : Byte) (imm : Imm) : commandWord op imm &&& 0xFF000000#32 = commandWord op 0 := by
  have h : (op ++ imm : BitVec (8 + 24)) &&& (0xFF#8 ++ 0#24 : BitVec (8 + 24)) = (op ++ 0#24 : BitVec (8 + 24)) := by
    rw [BitVec.and_append, show (0xFF#8) = BitVec.allOnes 8 from rfl, BitVec.and_allOnes, BitVec.and_zero]
  exact h

theorem nop : Statement .nop :=
  ⟨⟨0x00, "NOP", 0x00000000, 0xFFFFFFFF⟩, by decide, by decide, by decide, rfl⟩

theorem clr : Statement .clr :=
  ⟨⟨0x01, "CLR", 0x01000000, 0xFFFFFFFF⟩, by decide, by decide, by decide, rfl⟩

theorem sclr : Statement .sclr :=
  ⟨⟨0x10, "SCLR", 0x10000000, 0xFFFFFFFF⟩, by decide, by decide, by decide, rfl⟩

theorem spush (b : Bit) : Statement (.spush b) :=
  ⟨⟨0x11, "SPUSH", 0x11000000, 0xFFFFFFFE⟩, by decide, by cases b <;> decide, by cases b <;> decide, rfl⟩

theorem stap (u : Imm) : Statement (.stap u) :=
  ⟨⟨0x12, "STAP", 0x12000000, 0xFF000000⟩, by decide, opField_commandWord _ _, and_op_mask _ _, rfl⟩

theorem step : Statement .step :=
  ⟨⟨0x13, "STEP", 0x13000000, 0xFFFFFFFF⟩, by decide, by decide, by decide, rfl⟩

theorem schk : Statement .schk :=
  ⟨⟨0x14, "SCHK", 0x14000000, 0xFFFFFFFF⟩, by decide, by decide, by decide, rfl⟩

theorem srd (i : Imm) : Statement (.srd i) :=
  ⟨⟨0x15, "SRD", 0x15000000, 0xFF000000⟩, by decide, opField_commandWord _ _, and_op_mask _ _, rfl⟩

theorem slen : Statement .slen :=
  ⟨⟨0x16, "SLEN", 0x16000000, 0xFFFFFFFF⟩, by decide, by decide, by decide, rfl⟩

theorem taprd : Statement .taprd :=
  ⟨⟨0x17, "TAPRD", 0x17000000, 0xFFFFFFFF⟩, by decide, by decide, by decide, rfl⟩

theorem gen (n : Imm) : Statement (.gen n) :=
  ⟨⟨0x20, "GEN", 0x20000000, 0xFF000000⟩, by decide, opField_commandWord _ _, and_op_mask _ _, rfl⟩

theorem kclr : Statement .kclr :=
  ⟨⟨0x21, "KCLR", 0x21000000, 0xFFFFFFFF⟩, by decide, by decide, by decide, rfl⟩

theorem kpush (b : Bit) : Statement (.kpush b) :=
  ⟨⟨0x22, "KPUSH", 0x22000000, 0xFFFFFFFE⟩, by decide, by cases b <;> decide, by cases b <;> decide, rfl⟩

theorem krd (i : Imm) : Statement (.krd i) :=
  ⟨⟨0x23, "KRD", 0x23000000, 0xFF000000⟩, by decide, opField_commandWord _ _, and_op_mask _ _, rfl⟩

theorem klen : Statement .klen :=
  ⟨⟨0x24, "KLEN", 0x24000000, 0xFFFFFFFF⟩, by decide, by decide, by decide, rfl⟩

theorem xclr : Statement .xclr :=
  ⟨⟨0x30, "XCLR", 0x30000000, 0xFFFFFFFF⟩, by decide, by decide, by decide, rfl⟩

theorem xpush (b : Bit) : Statement (.xpush b) :=
  ⟨⟨0x31, "XPUSH", 0x31000000, 0xFFFFFFFE⟩, by decide, by cases b <;> decide, by cases b <;> decide, rfl⟩

theorem xorc : Statement .xorc :=
  ⟨⟨0x32, "XORC", 0x32000000, 0xFFFFFFFF⟩, by decide, by decide, by decide, rfl⟩

theorem yrd (i : Imm) : Statement (.yrd i) :=
  ⟨⟨0x33, "YRD", 0x33000000, 0xFF000000⟩, by decide, opField_commandWord _ _, and_op_mask _ _, rfl⟩

theorem ylen : Statement .ylen :=
  ⟨⟨0x34, "YLEN", 0x34000000, 0xFFFFFFFF⟩, by decide, by decide, by decide, rfl⟩

theorem maskpx (r g b : Byte) : Statement (.maskpx r g b) :=
  ⟨⟨0x40, "MASKPX", 0x40000000, 0xFF000000⟩, by decide, opField_commandWord _ _, and_op_mask _ _, rfl⟩

end Sys2Proof.Laws.EncodeRow
end

