-- ==== Sys2Proof/Laws/Ports.lean ====
section
/-! SUPPORT. What one clock cycle at the ports does (rules R64, R232), once for all later proofs. -/

namespace Sys2Proof.Machine

@[simp] theorem advance_zero (p : Params) (w : CommandWord) (b : Block) :
    advance p w b 0 = ⟨(transact p w b).1, .responding (transact p w b).2⟩ := rfl

@[simp] theorem advance_succ (p : Params) (w : CommandWord) (b : Block) (left : Nat) :
    advance p w b (left + 1) = ⟨b, .busy w left⟩ := rfl

/-- A command that has not completed has written nothing (assumption log 8). -/
theorem advance_block_of_not_responding {p : Params} {w : CommandWord} {b : Block} {n : Nat}
    (h : ∀ r, (advance p w b n).phase ≠ .responding r) : (advance p w b n).block = b := by
  cases n with
  | zero => exact absurd rfl (h _)
  | succ left => rfl

theorem clock_rst (p : Params) (s : PortState) {i : PortIn} (h : i.rst = true) : clock p s i = PortState.reset := by
  simp [clock, h, PortState.reset]

theorem clock_idle (p : Params) {s : PortState} {i : PortIn} (h : i.rst = false) (hs : s.phase = .idle) :
    clock p s i = if i.cmdValid then advance p i.cmdWord s.block i.latency else s := by
  simp [clock, h, hs]

theorem clock_busy (p : Params) {s : PortState} {i : PortIn} {w : CommandWord} {left : Nat} (h : i.rst = false)
    (hs : s.phase = .busy w left) : clock p s i = advance p w s.block left := by
  simp [clock, h, hs]

theorem clock_responding (p : Params) {s : PortState} {i : PortIn} {r : ResponseWord} (h : i.rst = false)
    (hs : s.phase = .responding r) : clock p s i = if i.rspReady then { s with phase := .idle } else s := by
  simp [clock, h, hs]

theorem accepted?_idle {s : PortState} {i : PortIn} (h : i.rst = false) (hs : s.phase = .idle) :
    accepted? s i = if i.cmdValid then some i.cmdWord else none := by
  simp [accepted?, PortState.cmdReady, h, hs]

theorem accepted?_busy {s : PortState} {w : CommandWord} {left : Nat} (i : PortIn) (hs : s.phase = .busy w left) :
    accepted? s i = none := by
  simp [accepted?, PortState.cmdReady, hs]

theorem accepted?_responding {s : PortState} {r : ResponseWord} (i : PortIn) (hs : s.phase = .responding r) :
    accepted? s i = none := by
  simp [accepted?, PortState.cmdReady, hs]

theorem delivered?_idle {s : PortState} (i : PortIn) (hs : s.phase = .idle) : delivered? s i = none := by
  simp [delivered?, PortState.rspWord?, hs]

theorem delivered?_busy {s : PortState} {w : CommandWord} {left : Nat} (i : PortIn) (hs : s.phase = .busy w left) :
    delivered? s i = none := by
  simp [delivered?, PortState.rspWord?, hs]

theorem delivered?_responding {s : PortState} {i : PortIn} {r : ResponseWord} (h : i.rst = false)
    (hs : s.phase = .responding r) : delivered? s i = if i.rspReady then some r else none := by
  simp [delivered?, PortState.rspWord?, h, hs]

end Sys2Proof.Machine
end

