-- ==== Sys2Proof/Laws/Sequences.lean ====
section
/-! SUPPORT. The lengths and bounds of the engine's, the generator's and the combiner's sequences. -/

namespace Sys2Proof.Machine

theorem stepSeed_ne_nil (s : Bits) (t : Nat) : stepSeed s t ≠ [] := by simp [stepSeed]

theorem trajectory_length {s : Bits} (t k : Nat) (h : s ≠ []) : (trajectory s t k).length = s.length := by
  induction k with
  | zero => rfl
  | succ k ih =>
    have hk : trajectory s t k ≠ [] := by
      rw [← List.length_pos_iff, ih]
      exact List.length_pos_iff.2 h
    rw [trajectory, stepSeed_length t hk, ih]

@[simp] theorem keystream_length (s : Bits) (t n : Nat) : (keystream s t n).length = n := by simp [keystream]

/-- What the loop of rule R131 keeps of its two locals: the seed's width, and one more bit of k a turn. -/
theorem generateLoop_lengths (t n : Nat) (s k : Bits) (h : s ≠ []) :
    (generateLoop t n s k).1.length = s.length ∧ (generateLoop t n s k).2.length = k.length + n := by
  induction n generalizing s k with
  | zero => simp [generateLoop]
  | succ n ih =>
    have hn := ih (stepSeed s t) (k ++ [feedback s t]) (stepSeed_ne_nil s t)
    simp only [generateLoop, hn, stepSeed_length t h, List.length_append, List.length_singleton, true_and]
    omega

theorem padLeft_length {s : Bits} {m : Nat} (h : s.length ≤ m) : (padLeft s m).length = m := by
  simp only [padLeft, List.length_append, List.length_replicate]
  omega

theorem combine_length (k x : Bits) : (combine k x).length = max k.length x.length := by
  rw [combine, List.length_zipWith, padLeft_length (Nat.le_max_left _ _), padLeft_length (Nat.le_max_right _ _), Nat.min_self]

/-- seedVal lies below 2^L (R170). -/
theorem val_lt_two_pow (s : Bits) : val s < 2 ^ s.length := by
  induction s with
  | nil => simp [val]
  | cons b rest ih =>
    rw [val, List.length_cons, pow_succ]
    cases b <;> simp <;> omega

end Sys2Proof.Machine
end

