-- ==== Sys2Proof/Tests/Slice0.lean ====
section
/-! SUPPORT. Tests of the model. Expected results come from the spec: the encodings of 30_encoding.md (rules R72, R74, R81), the
vectors of 95_test_vectors.md with its parameters (LMAX = 8, KMAX = 16, XMAX = 8, MASK_FN_TEST), and the examples of the command
rules. Then a witness for the hypotheses of each obligation that has any. -/

namespace Sys2Proof.Tests

open Sys2Proof Sys2Proof.Machine

/-- A bit sequence written as its digits. -/
def bits (l : List Nat) : Bits := l.map (· == 1)

/-- A block with a seed and a tap. -/
def seeded (s : List Nat) (t : Imm) : Block := { Block.reset with seed := bits s, tap := t }

/-- A block with a keystream store, an input and an output. -/
def stored (k x y : List Nat) : Block :=
  { Block.reset with ksValid := true, ks := bits k, x := bits x, y := bits y }

/-- One transaction with the test parameters. -/
def run (w : CommandWord) (b : Block) : Block × ResponseWord := transact Params.test w b

/-- A machine with a block and one word issued. -/
def issued (b : Block) (w : CommandWord) : State := { block := b, pending := [.command w], responses := [] }

/-! ## Well-formedness: each check refuses an ill-formed term (R6 to R8, R72, R79) -/

theorem test_wf_params : Params.test.Wf := by decide
theorem test_wf_refuses_lmax_zero : ¬ ({ Params.test with lmax := 0 } : Params).Wf := by decide
theorem test_wf_refuses_lmax_over : ¬ ({ Params.test with lmax := 16777216 } : Params).Wf := by decide
theorem test_wf_refuses_kmax_over : ¬ ({ Params.test with kmax := 16777216 } : Params).Wf := by decide
theorem test_wf_refuses_xmax_over : ¬ ({ Params.test with xmax := 16777216 } : Params).Wf := by decide
theorem test_wf_accepts_operands :
    wellFormedOperands "SPUSH" [1] = true ∧ wellFormedOperands "STAP" [16777215] = true ∧
      wellFormedOperands "MASKPX" [255, 0, 255] = true := by decide
theorem test_wf_refuses_bit_two : wellFormedOperands "SPUSH" [2] = false := by decide
theorem test_wf_refuses_wide_operand : wellFormedOperands "GEN" [16777216] = false := by decide
theorem test_wf_refuses_wide_channel : wellFormedOperands "MASKPX" [0, 256, 0] = false := by decide
theorem test_wf_refuses_missing_operand : wellFormedOperands "SRD" [] = false := by decide
theorem test_wf_refuses_unknown_mnemonic : wellFormedOperands "CIPHER" [] = false := by decide

/-! ## Decoding: every row's word, written out from R72 and R74 -/

theorem test_decode_format_n :
    [0x00000000#32, 0x01000000#32, 0x10000000#32, 0x13000000#32, 0x14000000#32, 0x16000000#32, 0x17000000#32, 0x21000000#32,
      0x24000000#32, 0x30000000#32, 0x32000000#32, 0x34000000#32].map decode =
    [.ok .nop, .ok .clr, .ok .sclr, .ok .step, .ok .schk, .ok .slen, .ok .taprd, .ok .kclr, .ok .klen, .ok .xclr, .ok .xorc,
      .ok .ylen] := by decide
theorem test_decode_format_b :
    [0x11000000#32, 0x11000001#32, 0x22000000#32, 0x22000001#32, 0x31000000#32, 0x31000001#32].map decode =
    [.ok (.spush false), .ok (.spush true), .ok (.kpush false), .ok (.kpush true), .ok (.xpush false),
      .ok (.xpush true)] := by decide
theorem test_decode_format_u :
    [0x12FFFFFF#32, 0x15000004#32, 0x20000011#32, 0x23800001#32, 0x33000005#32].map decode =
    [.ok (.stap 0xFFFFFF), .ok (.srd 4), .ok (.gen 17), .ok (.krd 0x800001), .ok (.yrd 5)] := by decide
theorem test_decode_format_p :
    decode 0x40102030#32 = .ok (.maskpx 0x10 0x20 0x30) ∧ decode 0x40FF0080#32 = .ok (.maskpx 0xFF 0x00 0x80) := by decide

/-- The edges of the reserved ranges of R76. -/
theorem test_decode_reserved :
    [0x02000000#32, 0x0F000000#32, 0x18000000#32, 0x1F000000#32, 0x25000000#32, 0x2F000000#32, 0x35000000#32, 0x3F000000#32,
      0x41000000#32, 0xFF000000#32].map decode = List.replicate 10 (.error .reservedOp) := by decide

/-- Words with a "must be 0" bit set (R76, 95_test_vectors.md 2.6), the highest and lowest such bits among them. -/
theorem test_decode_must_be_zero :
    [0x00000001#32, 0x13000001#32, 0x13800000#32, 0x11000002#32, 0x22800000#32].map decode =
      List.replicate 5 (.error .mustBeZero) := by decide

/-- No two rows of the opcode map have the same OP (R74). -/
theorem test_opcode_map_ops_differ : (opcodeMap.map OpRow.op).Nodup := by decide

theorem test_table_word : decodeTableWord 32 0x20000005 = some (.gen 5) ∧ decodeTableWord 32 0x02000000 = none := by decide

/-! ## Commands (95_test_vectors.md sections 2.1 to 2.6, and the examples of the command rules) -/

theorem test_nop : run 0x00000000 (seeded [1, 0] 1) = (seeded [1, 0] 1, 0x00000000) := by decide
theorem test_clr : run 0x01000000 (stored [1] [1, 0] [1, 1]) = (Block.reset, 0x00000000) := by decide
theorem test_sclr : run 0x10000000 (seeded [1, 0, 1, 1] 2) = (seeded [] 2, 0x00000000) := by decide
theorem test_spush : run 0x11000001 (seeded [1, 0, 1] 0) = (seeded [1, 0, 1, 1] 0, 0x00000000) := by decide
theorem test_spush_full :
    run 0x11000001 (seeded [1, 0, 1, 1, 0, 1, 0, 1] 0) = (seeded [1, 0, 1, 1, 0, 1, 0, 1] 0, 0x05000008) := by decide
theorem test_stap_any : run 0x12FFFFFF (seeded [] 0) = (seeded [] 0xFFFFFF, 0x00000000) := by decide
theorem test_step : run 0x13000000 (seeded [0, 1, 1, 0] 2) = (seeded [1, 1, 0, 1] 2, 0x00000001) := by decide
theorem test_step_tap_beyond : run 0x13000000 (seeded [1, 0, 1, 1] 4) = (seeded [1, 0, 1, 1] 4, 0x01000004) := by decide
theorem test_schk_legal : run 0x14000000 (seeded [1, 0, 1, 1] 3) = (seeded [1, 0, 1, 1] 3, 0x00000000) := by decide
theorem test_schk_empty : run 0x14000000 (seeded [] 0) = (seeded [] 0, 0x04000000) := by decide
theorem test_srd : run 0x15000001 (seeded [0, 1, 1, 0] 0) = (seeded [0, 1, 1, 0] 0, 0x00000001) := by decide
theorem test_srd_beyond : run 0x15000004 (seeded [0, 1, 1, 0] 0) = (seeded [0, 1, 1, 0] 0, 0x07000004) := by decide
theorem test_slen : run 0x16000000 (seeded [1, 0, 1, 1] 0) = (seeded [1, 0, 1, 1] 0, 0x00000004) := by decide
theorem test_taprd : run 0x17000000 (seeded [] 2) = (seeded [] 2, 0x00000002) := by decide
theorem test_gen :
    run 0x20000010 (seeded [1, 0, 1, 1, 0, 1, 0, 1] 7) =
      ({ seeded [0, 0, 1, 1, 1, 0, 1, 1] 7 with ksValid := true, ks := bits [0, 0, 1, 0, 0, 1, 1, 0, 0, 0, 1, 1, 1, 0, 1, 1] },
        0x00000000) := by decide
theorem test_gen_over : (run 0x20000011 (seeded [1, 0, 1, 1, 0, 1, 0, 1] 7)).2 = 0x05000010 := by decide
theorem test_kclr : run 0x21000000 (stored [1, 0] [1] []) = (stored [] [1] [], 0x00000000) := by decide
theorem test_kpush : run 0x22000001 (stored [1, 0] [] []) = (stored [1, 0, 1] [] [], 0x00000000) := by decide
theorem test_kpush_no_store : run 0x22000001 Block.reset = (Block.reset, 0x02000000) := by decide
theorem test_krd : (run 0x23000002 (stored [0, 1, 1, 0, 1] [] [])).2 = 0x00000001 := by decide
theorem test_krd_beyond : (run 0x23000005 (stored [0, 1, 1, 0, 1] [] [])).2 = 0x07000005 := by decide
theorem test_klen : (run 0x24000000 (stored [0, 1, 1, 0, 1] [] [])).2 = 0x00000005 := by decide
theorem test_klen_no_store : run 0x24000000 Block.reset = (Block.reset, 0x02000000) := by decide
theorem test_xclr : run 0x30000000 (stored [1] [1, 1, 0, 1, 0] [1]) = (stored [1] [] [1], 0x00000000) := by decide
theorem test_xpush : run 0x31000000 (stored [] [1, 1, 0, 1] []) = (stored [] [1, 1, 0, 1, 0] [], 0x00000000) := by decide
theorem test_xpush_full : (run 0x31000001 (stored [] [1, 1, 1, 1, 1, 1, 1, 1] [])).2 = 0x05000008 := by decide
theorem test_xorc_input_longer :
    run 0x32000000 (stored [1, 0, 1] [1, 1, 0, 1, 0] []) = (stored [1, 0, 1] [1, 1, 0, 1, 0] [1, 1, 1, 1, 1], 0x00000005) := by
  decide
theorem test_xorc_key_longer : (run 0x32000000 (stored [1, 1, 0, 1, 0] [1, 0, 1] [])).1.y = bits [1, 1, 1, 1, 1] := by decide
theorem test_yrd : (run 0x33000004 (stored [] [] [1, 1, 1, 1, 1])).2 = 0x00000001 := by decide
theorem test_yrd_beyond : (run 0x33000005 (stored [] [] [1, 1, 1, 1, 1])).2 = 0x07000005 := by decide
theorem test_ylen : (run 0x34000000 (stored [] [] [1, 1, 1, 1, 1])).2 = 0x00000005 := by decide
theorem test_maskpx :
    run 0x40FF0080 (seeded [0, 1, 1, 0, 1, 0, 1, 0] 3) = (seeded [1, 1, 0, 1, 0, 1, 0, 0] 3, 0x00956AEA) := by decide
theorem test_maskpx_tap_beyond : run 0x40010203 (seeded [1, 0, 1, 1] 4) = (seeded [1, 0, 1, 1] 4, 0x01000004) := by decide
theorem test_illegal_word : run 0x13000001 (seeded [1, 0, 1, 1] 2) = (seeded [1, 0, 1, 1] 2, 0x06000013) := by decide

/-! ## A step from reset, with the implementation's opaque parameters -/

theorem test_step_runs_first_word :
    ∃ t, step (State.reset.withFetchWord 32 0x12000002) = .next t ∧ t.block.tap = 2 ∧ t.responses = [0x00000000] :=
  ⟨_, rfl, rfl, rfl⟩

/-! ## The host's side: the assembler (R79, R80), the conversions (R63, R216), the image procedure (R174), the ports (R64) -/

theorem test_assemble_line :
    assembleLine "  MASKPX 0x10, 32, 0x30 ; a pixel".toList = some [.maskpx 0x10 0x20 0x30] := by decide
theorem test_assemble_pseudo :
    assembleLine "GENKS \"10\", 1, 4".toList = some [.sclr, .spush true, .spush false, .stap 1, .gen 4] := by decide
theorem test_assemble_refuses : assembleLine "SPUSH 2".toList = none ∧ assembleLine "LDX \"12\"".toList = none := by decide
theorem test_assemble_text : assemble "SCLR\n; empty\nENC".toList = some [.sclr, .xorc] := by decide
theorem test_seed_text : seedOfText "1011".toList = .ok (bits [1, 0, 1, 1]) := by decide
theorem test_image :
    (maskImage Params.test [[⟨0x10, 0x20, 0x30⟩, ⟨0xFF, 0x00, 0x80⟩]] (bits [1, 0, 1, 1]) 2 Block.reset).2 =
      .ok [[⟨0x1B, 0x2B, 0x3B⟩, ⟨0xF9, 0x06, 0x86⟩]] := by decide
theorem test_port_accepts_then_responds :
    (clockAll Params.test [⟨false, true, 0x16000000, false, 1⟩, ⟨false, false, 0, true, 0⟩] ⟨seeded [1, 0] 0, .idle⟩).phase =
      .responding 0x00000002 := by decide
/-- R64: the response to a command accepted in a cycle can be delivered in the next one. -/
theorem test_port_delivers_in_the_next_cycle :
    deliveredAll Params.test [⟨false, true, 0x16000000, true, 0⟩, ⟨false, false, 0, true, 0⟩] ⟨seeded [1, 0] 0, .idle⟩ =
      [0x00000002] := by decide

/-! ## Witnesses: states and operands that meet the hypotheses of the obligations, clause by clause -/

/-- A machine with one external reset issued. -/
def resetIssued : State := { block := seeded [1] 0, pending := [.reset], responses := [0x00000000] }

theorem witness_reset_pending : resetIssued.pending = .reset :: [] := rfl
theorem witness_nothing_pending : State.reset.pending = [] := rfl
theorem witness_legal_word_pending :
    (issued Block.reset 0x11000001).pending = .command 0x11000001 :: [] ∧ decode 0x11000001#32 = .ok (.spush true) :=
  ⟨rfl, by decide⟩
theorem witness_illegal_word_pending :
    (issued Block.reset 0x13000001).pending = .command 0x13000001 :: [] ∧ decode 0x13000001#32 = .error .mustBeZero :=
  ⟨rfl, by decide⟩
theorem witness_row_selected :
    (⟨0x11, "SPUSH", 0x11000000, 0xFFFFFFFE⟩ : OpRow) ∈ opcodeMap ∧ 0x11000001#32 &&& 0xFFFFFFFE#32 = 0x11000000#32 := by
  decide

/-- No store, and a command that is neither GEN nor KCLR and answers. -/
theorem witness_no_store :
    State.reset.block.ksValid = false ∧ Instr.nop ≠ .kclr ∧ (∀ n, Instr.nop ≠ .gen n) ∧
      ∃ t, exec .nop State.reset = .next t :=
  ⟨rfl, by decide, fun n => by simp, _, rfl⟩

/-- A state whose seed is at the capacity, whatever the capacity is; and one whose seed is below it. -/
theorem witness_seed_full : (List.replicate Config.params.lmax false : Bits).length = Config.params.lmax :=
  List.length_replicate
theorem witness_seed_room : State.reset.block.seed.length ≠ Config.params.lmax := by
  have := params_lmax_pos
  simp
  omega
theorem witness_load_fits : (bits [1, 0, 1, 1]).length ≤ Params.test.lmax := by decide

/-- STEP, SCHK and MASKPX: a legal seed and tap, at the largest legal tap and at tap 0; an empty seed; a tap equal to the width. -/
theorem witness_seed_tap_legal :
    let b := seeded [1, 0, 1, 1] 3
    b.seed = true :: bits [0, 1, 1] ∧ b.seed[b.tap.toNat]? = some true ∧ b.tap.toNat < b.seed.length := by decide
theorem witness_tap_zero : (seeded [1] 0).seed ≠ [] ∧ (seeded [1] 0).tap = 0 ∧ (seeded [1] 0).seed[0]? = some true := by decide
theorem witness_seed_empty : State.reset.block.seed = [] := rfl
theorem witness_tap_at_width :
    (seeded [1, 0, 1, 1] 4).seed ≠ [] ∧ (seeded [1, 0, 1, 1] 4).seed.length ≤ (seeded [1, 0, 1, 1] 4).tap.toNat := by decide
theorem witness_mask : ∃ m : Byte, m = Config.params.maskFn (val (seeded [1, 0] 1).seed) := ⟨_, rfl⟩

/-- Reads: the last index, and the first index beyond. -/
theorem witness_read_last :
    (seeded [1, 0] 0).seed[(1 : Imm).toNat]? = some false ∧ (stored [] [] [1, 0]).y[(1 : Imm).toNat]? = some false ∧
      (stored [1, 0] [] []).ksValid = true ∧ (stored [1, 0] [] []).ks[(1 : Imm).toNat]? = some false := by decide
theorem witness_read_beyond :
    (seeded [1, 0] 0).seed.length ≤ (2 : Imm).toNat ∧ (stored [] [] [1, 0]).y.length ≤ (2 : Imm).toNat ∧
      (stored [1, 0] [] []).ksValid = true ∧ (stored [1, 0] [] []).ks.length ≤ (2 : Imm).toNat := by decide
theorem witness_output_empty :
    Instr.nop ≠ .xorc ∧ State.reset.block.y = [] ∧ ∃ t, exec .nop State.reset = .next t := ⟨by decide, rfl, _, rfl⟩

/-- GEN: a step count the store holds (0, and KMAX itself), with a legal seed and tap. -/
theorem witness_gen_fits :
    (seeded [1, 0] 1).tap.toNat < (seeded [1, 0] 1).seed.length ∧ (0 : Imm).toNat ≤ Config.params.kmax ∧
      Config.kmax.toNat ≤ Config.params.kmax := ⟨by decide, Nat.zero_le _, Nat.le_refl _⟩

/-- The store at its capacity, and away from it. -/
theorem witness_store_full :
    ({ stored [] [] [] with ks := List.replicate Config.params.kmax false } : Block).ksValid = true ∧
      (List.replicate Config.params.kmax false : Bits).length = Config.params.kmax := ⟨rfl, List.length_replicate⟩
theorem witness_store_room :
    ({ stored [] [] [] with ks := List.replicate (Config.params.kmax + 1) false } : Block).ksValid = true ∧
      (List.replicate (Config.params.kmax + 1) false : Bits).length ≠ Config.params.kmax :=
  ⟨rfl, by rw [List.length_replicate]; omega⟩
theorem witness_input_full : (List.replicate Config.params.xmax false : Bits).length = Config.params.xmax :=
  List.length_replicate
theorem witness_input_room : (List.replicate (Config.params.xmax + 1) false : Bits).length ≠ Config.params.xmax := by
  rw [List.length_replicate]
  omega
theorem witness_inv : State.reset.Inv := by simp [State.Inv, Block.Wf]

/-- An error response to an issued word, and the next word issued behind it. -/
theorem witness_error_response :
    ∃ t r, step { State.reset with pending := [.command 0x13000000, .command 0x00000000] } = .next t ∧
      t.responses = [] ++ [r] ∧ codeField r ≠ 0x00 := ⟨_, _, rfl, rfl, by decide⟩
theorem witness_next_answers :
    ∃ u, step { State.reset with pending := [.command 0x00000000] } = .next u := ⟨_, rfl⟩

/-- Each error code, answered by `exec` on the implementation's own parameters. -/
theorem witness_codes :
    (∃ t r, exec .step { State.reset with block := seeded [1] 1 } = .next t ∧ t.responses = [] ++ [r] ∧ codeField r = 0x01) ∧
    (∃ t r, exec .xorc State.reset = .next t ∧ t.responses = [] ++ [r] ∧ codeField r = 0x02) ∧
    (∃ t r, exec .step State.reset = .next t ∧ t.responses = [] ++ [r] ∧ codeField r = 0x04) ∧
    (∃ t r, exec (.srd 0) State.reset = .next t ∧ t.responses = [] ++ [r] ∧ codeField r = 0x07) :=
  ⟨⟨_, _, rfl, rfl, by decide⟩, ⟨_, _, rfl, rfl, by decide⟩, ⟨_, _, rfl, rfl, by decide⟩, ⟨_, _, rfl, rfl, by decide⟩⟩
theorem witness_code_capacity :
    ∃ s t r, exec (.spush true) s = .next t ∧ t.responses = s.responses ++ [r] ∧ codeField r = 0x05 := by
  refine ⟨{ State.reset with block := { Block.reset with seed := List.replicate Config.params.lmax false } }, _, _,
    exec_eq_answer _ _, rfl, ?_⟩
  simp only [resultOf, resultSpush, pushBit_of_full List.length_replicate, Result.word_raise, codeField_responseWord]
  rfl

/-- KS_VALID set, kept by a command that is not CLR. -/
theorem witness_store_kept : (stored [1] [] []).ksValid = true ∧ ∃ t, exec .nop { State.reset with block := stored [1] [] [] } = .next t :=
  ⟨rfl, _, rfl⟩
theorem witness_seed_tap_user : Stated.usesSeedTap .step ∧ ¬ Stated.usesSeedTap .nop := ⟨trivial, fun h => h⟩
theorem witness_not_input_command :
    Instr.slen ≠ .xorc ∧ (∀ b, Instr.slen ≠ .xpush b) ∧ ∃ t, exec .slen State.reset = .next t :=
  ⟨by decide, fun b => by simp, _, rfl⟩

/-- The engine's bit sequences: widths 4 and 1. -/
theorem witness_sequence :
    (3 : Nat) < (bits [1, 0, 1, 1]).length ∧ (bits [1, 0, 1, 1])[0]? = some true ∧ (bits [1, 0, 1, 1])[3]? = some true ∧
      (0 : Nat) < (bits [1]).length ∧ bits [1] ≠ [] := by decide

/-- The combiner: an index below the longer length, at both its ends, with operands of different lengths. -/
theorem witness_combine_index :
    (0 : Nat) < max (bits [1, 0, 1]).length (bits [1, 1, 0, 1, 0]).length ∧
      (4 : Nat) < max (bits [1, 0, 1]).length (bits [1, 1, 0, 1, 0]).length ∧
      (bits [1, 0, 1]).length ≤ (bits [1, 1, 0, 1, 0]).length := by decide

/-- The image procedure: a legal seed and tap, a 1 × 2 image and one of its pixels; the procedure answers. -/
theorem witness_image :
    (bits [1, 0, 1, 1]).length ≤ Params.test.lmax ∧ (2 : Imm).toNat < (bits [1, 0, 1, 1]).length ∧
      (∀ row ∈ [[(⟨1, 2, 3⟩ : Pixel), ⟨4, 5, 6⟩]], row.length = 2) ∧
      (([[(⟨1, 2, 3⟩ : Pixel), ⟨4, 5, 6⟩]] : List (List Pixel))[0]?.bind fun row => row[1]?) = some ⟨4, 5, 6⟩ := by decide
theorem witness_image_answers :
    ∃ b out, maskImage Params.test [[⟨1, 2, 3⟩]] (bits [1, 0, 1, 1]) 2 Block.reset = (b, .ok out) := ⟨_, _, rfl⟩
theorem witness_image_bad_seed_or_tap : bits [1, 0] ≠ [] ∧ (bits [1, 0]).length ≤ (2 : Imm).toNat := by decide

/-- The host boundary and the assembler: each side of each limit. -/
theorem witness_texts :
    ('2' ∈ ['1', '2'] ∧ '2' ≠ '0' ∧ '2' ≠ '1') ∧ ((-1 : Int) < 0) ∧ ((2 : Int) ^ 24 ≤ 16777216) ∧
      (16777215 < 2 ^ 24) ∧ (2 ^ 24 ≤ 16777216) := by decide

/-- The machine's run and the ports: pending words, cycles without a reset, a cycle with one, and each phase. -/
theorem witness_words_pending :
    (issued Block.reset 0x00000000).pending = ([0x00000000#32].map .command) ++ [] := rfl
theorem witness_cycles : ∀ i ∈ [(⟨false, true, 0x16000000, true, 3⟩ : PortIn)], i.rst = false := by decide
theorem witness_phases :
    (⟨true, false, 0, false, 0⟩ : PortIn).rst = true ∧ PortState.reset.phase = .idle ∧ PortState.reset.cmdReady = true ∧
      (⟨Block.reset, .busy 0x16000000 1⟩ : PortState).phase = .busy 0x16000000 (0 + 1) := by decide
theorem witness_command_in_progress :
    (⟨false, true, 0x16000000, true, 1⟩ : PortIn).rst = false ∧
      (clock Params.test PortState.reset ⟨false, true, 0x16000000, true, 1⟩).phase = .busy 0x16000000 0 ∧
      ∀ r, (clock Params.test PortState.reset ⟨false, true, 0x16000000, true, 1⟩).phase ≠ .responding r :=
  ⟨rfl, rfl, fun _ h => nomatch h⟩

end Sys2Proof.Tests
end

section
/-! PROOFS. A step on a command word, by whether the word decodes (rules R75, R76); obligation O2. -/

namespace Sys2Proof.Machine

theorem resultOfWord_ok {w : CommandWord} {i : Instr} (p : Params) (b : Block) (h : decode w = .ok i) :
    resultOfWord p w b = resultOf p i b := by
  rw [resultOfWord, h]

theorem resultOfWord_error {w : CommandWord} {e : IllegalWord} (p : Params) (b : Block) (h : decode w = .error e) :
    resultOfWord p w b = illegalResult w := by
  rw [resultOfWord, h]

/-- IllegalCommand carries the word's OP, its bits from 24 up, in DATA (R207). -/
theorem illegalResult_word (w : CommandWord) : (illegalResult w).word = Stated.errWord 0x06 (w.toNat / 2 ^ 24) := by
  rw [illegalResult, opField_toNat]
  rfl

theorem step_command_ok {s : State} {w : CommandWord} {rest : List Input} {i : Instr}
    (hs : s.pending = .command w :: rest) (hw : decode w = .ok i) : step s = exec i { s with pending := rest } := by
  rw [step_command hs, resultOfWord_ok _ _ hw, exec_eq_answer]

theorem step_command_error {s : State} {w : CommandWord} {rest : List Input} {e : IllegalWord}
    (hs : s.pending = .command w :: rest) (hw : decode w = .error e) :
    step s = .next { block := s.block, pending := rest,
                     responses := s.responses ++ [Stated.errWord 0x06 (w.toNat / 2 ^ 24)] } := by
  rw [step_command hs, resultOfWord_error _ _ hw, ← illegalResult_word]
  rfl

theorem step_withFetchWord {w : CommandWord} {i : Instr} (s : State) (hw : decode w = .ok i) :
    step (s.withFetchWord 32 w.toNat) = exec i s := by
  have hs : (s.withFetchWord 32 w.toNat).pending = .command w :: s.pending := by
    rw [State.withFetchWord_pending, tableWord_full]
  exact step_command_ok hs hw

/-- Settles O2: a step's cases, one lemma each. -/
theorem stepRunsTheDecodedCommand : Obligations.StepRunsTheDecodedCommand := by
  unfold Obligations.StepRunsTheDecodedCommand
  intro s
  refine ⟨step_idle, ?reset, ?legal, ?illegal, ?fetched⟩
  case reset => exact fun _ hs => step_reset hs
  case legal => exact fun _ _ _ hs hw => step_command_ok hs hw
  case illegal => exact fun _ _ _ hs hw => step_command_error hs hw
  case fetched => exact fun _ _ hw => step_withFetchWord s hw

end Sys2Proof.Machine
end

section
/-! PROOFS. The codes the block may return (rules R201, R204): every shared operation keeps a result off ImageNotFound, so every command
does; obligation O25. -/

namespace Sys2Proof.Machine

/-- The CODEs the block may return: success and the errors of rule R201 but ImageNotFound (R204). -/
def returnableCodes : List Byte := [0x00#8, 0x01#8, 0x02#8, 0x04#8, 0x05#8, 0x06#8, 0x07#8]

/-- A result the block may end a command with: any but ImageNotFound, which is the host's (R204). -/
def Result.Returnable : Result → Prop
  | .respond _ _ => True
  | .raise e _ => e ≠ .imageNotFound

@[simp] theorem Result.returnable_respond (b : Block) (d : Imm) : (Result.respond b d).Returnable := trivial

@[simp] theorem Result.returnable_raise (e : Error) (d : Imm) :
    (Result.raise e d).Returnable ↔ e ≠ .imageNotFound := Iff.rfl

theorem Error.code_mem {e : Error} (h : e ≠ .imageNotFound) :
    e.code ∈ returnableCodes := by
  cases e with
  | imageNotFound => exact absurd rfl h
  | invalidTap | keystreamNotFound | malformedSeed | capacityExceeded | illegalCommand | indexOutOfRange => decide

theorem Result.Returnable.code_mem {r : Result} (h : r.Returnable) :
    codeField r.word ∈ returnableCodes := by
  cases r with
  | respond b d =>
    rw [Result.word_respond, codeField_responseWord]
    exact List.mem_cons_self
  | raise e d =>
    rw [Result.word_raise, codeField_responseWord]
    exact Error.code_mem h

theorem readBit_returnable (q : Bits) (i : Imm) (b : Block) : (readBit q i b).Returnable := by
  obtain ⟨v, -, h⟩ | ⟨-, h⟩ := readBit_cases q i b <;> simp [h]

theorem pushBit_returnable (q : Bits) (cap : Nat) (b : Block) : (pushBit q cap b).Returnable := by
  obtain ⟨-, h⟩ | ⟨-, h⟩ := pushBit_cases q cap b <;> simp [h]

theorem checkSeedTap_returnable {b : Block} {r : Result} (hr : r.Returnable) : (checkSeedTap b r).Returnable := by
  obtain ⟨-, h⟩ | ⟨-, -, h⟩ | ⟨-, h⟩ := checkSeedTap_cases b r <;> simp [h, hr]

theorem checkStore_returnable {b : Block} {r : Result} (hr : r.Returnable) : (checkStore b r).Returnable := by
  obtain ⟨-, h⟩ | ⟨-, h⟩ := checkStore_cases b r <;> simp [h, hr]

theorem resultGen_returnable (p : Params) (n : Imm) (b : Block) : (resultGen p n b).Returnable := by
  refine checkSeedTap_returnable ?_
  split <;> simp

/-- Every command is one of the shared operations, or responds at once. -/
theorem resultOf_returnable (p : Params) (i : Instr) (b : Block) : (resultOf p i b).Returnable :=
  match i with
  | .nop | .clr | .sclr | .stap _ | .slen | .taprd | .kclr | .xclr | .ylen => trivial
  | .spush _ | .xpush _ => pushBit_returnable _ _ _
  | .srd _ | .yrd _ => readBit_returnable _ _ _
  | .step | .schk | .maskpx _ _ _ => checkSeedTap_returnable trivial
  | .gen n => resultGen_returnable p n b
  | .kpush _ => checkStore_returnable (pushBit_returnable _ _ _)
  | .krd _ => checkStore_returnable (readBit_returnable _ _ _)
  | .klen | .xorc => checkStore_returnable trivial

theorem resultOfWord_returnable (p : Params) (w : CommandWord) (b : Block) : (resultOfWord p w b).Returnable := by
  cases hw : decode w with
  | ok i =>
    rw [resultOfWord_ok p b hw]
    exact resultOf_returnable p i b
  | error e =>
    rw [resultOfWord_error p b hw]
    simp [illegalResult]

/-- Settles O25: a step on a word answers with the word's result, and no result is ImageNotFound. -/
theorem everyCommandWordGetsOneResponse : Obligations.EveryCommandWordGetsOneResponse := by
  unfold Obligations.EveryCommandWordGetsOneResponse
  intro s w rest hs
  exact ⟨_, _, step_command hs, rfl, rfl, (resultOfWord_returnable _ w s.block).code_mem⟩

end Sys2Proof.Machine
end

section
/-! PROOFS. The parameters' bounds and the lengths of a state that meets the invariant (rules R6 to R8, R14, R20); obligation O40. -/

namespace Sys2Proof.Machine

theorem params_wf : Config.params.Wf :=
  ⟨params_lmax_pos, Nat.le_pred_of_lt params_lmax_lt, Nat.le_pred_of_lt params_kmax_lt, Nat.le_pred_of_lt params_xmax_lt⟩

/-- A number below 2^24 is not cut (R14). -/
theorem zext24_toNat {n : Nat} (h : n < 2 ^ 24) : (zext24 n).toNat = n := by
  rw [zext24, BitVec.toNat_ofNat, Nat.mod_eq_of_lt h]

/-- No length of a state that meets the invariant reaches 2^24. -/
theorem State.Inv.lengths_lt {s : State} (h : s.Inv) :
    s.block.seed.length < 2 ^ 24 ∧ s.block.ks.length < 2 ^ 24 ∧ s.block.x.length < 2 ^ 24 ∧
      s.block.y.length < 2 ^ 24 := by
  obtain ⟨hseed, hks, hx, hy, -⟩ := h
  exact ⟨hseed.trans_lt params_lmax_lt, hks.trans_lt params_kmax_lt, hx.trans_lt params_xmax_lt,
    hy.trans_lt (max_lt params_kmax_lt params_xmax_lt)⟩

/-- Settles O40: each length lies below 2^24, so no length is cut. -/
theorem lengthsFitTheDataField : Obligations.LengthsFitTheDataField := by
  unfold Obligations.LengthsFitTheDataField
  refine ⟨params_wf, fun s h => ?_⟩
  obtain ⟨hseed, hks, hx, hy⟩ := State.Inv.lengths_lt h
  exact ⟨zext24_toNat hseed, zext24_toNat hks, zext24_toNat hx, zext24_toNat hy⟩

end Sys2Proof.Machine
end

section
/-! PROOFS. The value of a sequence as a sum over its indices (rule R15); obligation O44. -/

namespace Sys2Proof.Machine

/-- The sum of rule R15: the first bit is the term at index 0, and the rest's terms stand one index higher. -/
theorem val_eq_sum (s : Bits) :
    val s = ∑ i ∈ Finset.range s.length, (s.getD i false).toNat * 2 ^ (s.length - 1 - i) := by
  induction s with
  | nil => rfl
  | cons b rest ih =>
    have hexp (i : Nat) : rest.length - 1 - i = rest.length - (i + 1) := by omega
    rw [val, ih, List.length_cons, Finset.sum_range_succ', add_comm]
    simp only [List.getD_cons_succ, List.getD_cons_zero, Nat.add_sub_cancel, Nat.sub_zero, hexp]

/-- Settles O44, by induction on the sequence. -/
theorem valIsThePositionalSum : Obligations.ValIsThePositionalSum := by
  unfold Obligations.ValIsThePositionalSum
  exact val_eq_sum

end Sys2Proof.Machine
end

section
/-! PROOFS. A run of the machine over command words is the function of rule R18 applied in order; obligation O58. -/

namespace Sys2Proof.Machine

/-- A step on a command word is a transaction (R18). -/
theorem step_command_transact {s : State} {w : CommandWord} {rest : List Input} (h : s.pending = .command w :: rest) :
    step s = .next { block := (transact Config.params w s.block).1, pending := rest,
                     responses := s.responses ++ [(transact Config.params w s.block).2] } :=
  step_command h

/-- Settles O58, by induction on the list of words: the first step is a transaction, and the run goes on from its block. -/
theorem runIsTheSequenceOfTransactions : Obligations.RunIsTheSequenceOfTransactions := by
  unfold Obligations.RunIsTheSequenceOfTransactions
  intro s ws rest hs
  induction ws generalizing s with
  | nil =>
    obtain rfl : s.pending = rest := hs
    rw [transactAll, List.append_nil]
    rfl
  | cons w ws ih =>
    rw [List.length_cons, core_run_next (step_command_transact hs), ih _ rfl, transactAll, List.append_assoc]
    rfl

end Sys2Proof.Machine
end

section
/-! PROOFS. A reset cycle at the ports, and the block in a cycle that completes no command (rules R64, R232); obligation O60. -/

namespace Sys2Proof.Machine

theorem accepted?_rst (s : PortState) {i : PortIn} (h : i.rst = true) : accepted? s i = none := by
  simp [accepted?, h]

theorem delivered?_rst (s : PortState) {i : PortIn} (h : i.rst = true) : delivered? s i = none := by
  simp [delivered?, h]

/-- A reset cycle delivers nothing, and the cycles after it deliver what they would after reset. -/
theorem deliveredAll_rst (p : Params) (s : PortState) {i : PortIn} (h : i.rst = true) (cycles : List PortIn) :
    deliveredAll p (i :: cycles) s = deliveredAll p cycles PortState.reset := by
  rw [deliveredAll, delivered?_rst s h, clock_rst p s h]
  rfl

theorem clockAll_rst (p : Params) (s : PortState) {i : PortIn} (h : i.rst = true) (cycles : List PortIn) :
    clockAll p (i :: cycles) s = clockAll p cycles PortState.reset := by
  rw [clockAll, clock_rst p s h]

/-- A cycle without a reset writes the block only if it completes a command (assumption log 8). -/
theorem clock_block_of_not_responding {p : Params} {s : PortState} {i : PortIn} (hi : i.rst = false)
    (h : ∀ r, (clock p s i).phase ≠ .responding r) : (clock p s i).block = s.block := by
  cases hs : s.phase with
  | idle =>
    rw [clock_idle p hi hs] at h ⊢
    by_cases hv : i.cmdValid = true
    · rw [if_pos hv] at h ⊢
      exact advance_block_of_not_responding h
    · rw [if_neg hv]
  | busy w left =>
    rw [clock_busy p hi hs] at h ⊢
    exact advance_block_of_not_responding h
  | responding r =>
    rw [clock_responding p hi hs]
    split <;> rfl

/-- Settles O60, clause by clause. -/
theorem portResetAbortsTheCommand : Obligations.PortResetAbortsTheCommand := by
  unfold Obligations.PortResetAbortsTheCommand
  intro p s i
  refine ⟨fun hi => ⟨delivered?_rst s hi, accepted?_rst s hi, clock_rst p s hi,
    fun cycles => ⟨deliveredAll_rst p s hi cycles, clockAll_rst p s hi cycles⟩⟩, ?inProgress, ?busy, ?unfinished⟩
  case inProgress =>
    intro w left hi hs
    have hclock : clock p s i = ⟨s.block, .busy w left⟩ := by rw [clock_busy p hi hs, advance_succ]
    exact ⟨by rw [hclock], delivered?_busy i hs⟩
  case busy => exact fun _ _ hs => delivered?_busy i hs
  case unfinished => exact fun hi h => clock_block_of_not_responding hi h

end Sys2Proof.Machine
end

section
/-! PROOFS. The inversion of a command's writes (rules R22 to R26, R30), and the frame and the seed's width read off it; obligations O35 and
O36. -/

namespace Sys2Proof.Machine

/-- What a command may leave the block at, from `b`: the block as it was, or one of the writes its rule lists, with the checks the write
stands behind. -/
inductive Block.Write (p : Params) (b : Block) : Instr → Block → Prop
  | keep (i : Instr) : Write p b i b
  | clr : Write p b .clr Block.reset
  | sclr : Write p b .sclr { b with seed := [] }
  | spush (bit : Bit) (room : b.seed.length ≠ p.lmax) : Write p b (.spush bit) { b with seed := b.seed ++ [bit] }
  | stap (u : Imm) : Write p b (.stap u) { b with tap := u }
  | step (legal : b.tap.toNat < b.seed.length) : Write p b .step { b with seed := stepSeed b.seed b.tap.toNat }
  | maskpx (red green blue : Byte) (legal : b.tap.toNat < b.seed.length) :
      Write p b (.maskpx red green blue) { b with seed := stepSeed b.seed b.tap.toNat }
  | gen (n : Imm) (legal : b.tap.toNat < b.seed.length) (fits : n.toNat ≤ p.kmax) :
      Write p b (.gen n)
        { b with
          seed := (generateLoop b.tap.toNat n.toNat b.seed []).1
          ks := (generateLoop b.tap.toNat n.toNat b.seed []).2
          ksValid := true }
  | kclr : Write p b .kclr { b with ks := [], ksValid := true }
  | kpush (bit : Bit) (store : b.ksValid = true) (room : b.ks.length ≠ p.kmax) :
      Write p b (.kpush bit) { b with ks := b.ks ++ [bit] }
  | xclr : Write p b .xclr { b with x := [] }
  | xpush (bit : Bit) (room : b.x.length ≠ p.xmax) : Write p b (.xpush bit) { b with x := b.x ++ [bit] }
  | xorc (store : b.ksValid = true) : Write p b .xorc { b with y := combine b.ks b.x }

variable {p : Params} {b c : Block} {i : Instr}

theorem readBit_write (q : Bits) (n : Imm) : b.Write p i ((readBit q n b).block b) := by
  obtain ⟨v, -, h⟩ | ⟨-, h⟩ := readBit_cases q n b <;> rw [h] <;> exact .keep i

theorem pushBit_write {q : Bits} {cap : Nat} (hc : q.length ≠ cap → b.Write p i c) :
    b.Write p i ((pushBit q cap c).block b) := by
  obtain ⟨-, h⟩ | ⟨hroom, h⟩ := pushBit_cases q cap c
  · rw [h]; exact .keep i
  · rw [h]; exact hc hroom

theorem checkSeedTap_write {r : Result} (hr : b.tap.toNat < b.seed.length → b.Write p i (r.block b)) :
    b.Write p i ((checkSeedTap b r).block b) := by
  obtain ⟨-, h⟩ | ⟨-, -, h⟩ | ⟨hlegal, h⟩ := checkSeedTap_cases b r
  · rw [h]; exact .keep i
  · rw [h]; exact .keep i
  · rw [h]; exact hr hlegal

theorem checkStore_write {r : Result} (hr : b.ksValid = true → b.Write p i (r.block b)) :
    b.Write p i ((checkStore b r).block b) := by
  obtain ⟨-, h⟩ | ⟨hstore, h⟩ := checkStore_cases b r
  · rw [h]; exact .keep i
  · rw [h]; exact hr hstore

theorem resultGen_write (p : Params) (n : Imm) (b : Block) : b.Write p (.gen n) ((resultGen p n b).block b) := by
  refine checkSeedTap_write fun hlegal => ?_
  split
  case isTrue => exact .keep _
  case isFalse h => exact .gen n hlegal (Nat.le_of_not_lt h)

/-- The inversion of `resultOf`: every command's block is one of its writes. -/
theorem resultOf_write (p : Params) (i : Instr) (b : Block) : b.Write p i ((resultOf p i b).block b) :=
  match i with
  | .nop | .slen | .taprd | .ylen => .keep _
  | .clr => .clr
  | .sclr => .sclr
  | .stap u => .stap u
  | .kclr => .kclr
  | .xclr => .xclr
  | .spush bit => pushBit_write (.spush bit)
  | .xpush bit => pushBit_write (.xpush bit)
  | .srd n | .yrd n => readBit_write _ n
  | .step => checkSeedTap_write .step
  | .schk => checkSeedTap_write fun _ => .keep _
  | .maskpx red green blue => checkSeedTap_write (.maskpx red green blue)
  | .gen n => resultGen_write p n b
  | .kpush bit => checkStore_write fun hstore => pushBit_write (.kpush bit hstore)
  | .krd n => checkStore_write fun _ => readBit_write _ n
  | .klen => checkStore_write fun _ => .keep _
  | .xorc => checkStore_write .xorc

theorem exec_write {s t : State} (h : exec i s = .next t) : s.block.Write Config.params i t.block := by
  rw [exec_next_inv h]
  exact resultOf_write _ i s.block

/-! The frame, component by component. -/

theorem Block.Write.seed_eq (h : b.Write p i c) (hsclr : i ≠ .sclr) (hspush : ∀ bit, i ≠ .spush bit) (hstep : i ≠ .step)
    (hgen : ∀ n, i ≠ .gen n) (hmaskpx : ∀ red green blue, i ≠ .maskpx red green blue) (hclr : i ≠ .clr) :
    c.seed = b.seed := by
  cases h with
  | sclr => exact absurd rfl hsclr
  | spush bit => exact absurd rfl (hspush bit)
  | step => exact absurd rfl hstep
  | gen n => exact absurd rfl (hgen n)
  | maskpx red green blue => exact absurd rfl (hmaskpx red green blue)
  | clr => exact absurd rfl hclr
  | keep | stap | kclr | kpush | xclr | xpush | xorc => rfl

theorem Block.Write.tap_eq (h : b.Write p i c) (hstap : ∀ u, i ≠ .stap u) (hclr : i ≠ .clr) : c.tap = b.tap := by
  cases h with
  | stap u => exact absurd rfl (hstap u)
  | clr => exact absurd rfl hclr
  | keep | sclr | spush | step | maskpx | gen | kclr | kpush | xclr | xpush | xorc => rfl

theorem Block.Write.ksValid_eq (h : b.Write p i c) (hgen : ∀ n, i ≠ .gen n) (hkclr : i ≠ .kclr) (hclr : i ≠ .clr) :
    c.ksValid = b.ksValid := by
  cases h with
  | gen n => exact absurd rfl (hgen n)
  | kclr => exact absurd rfl hkclr
  | clr => exact absurd rfl hclr
  | keep | sclr | spush | stap | step | maskpx | kpush | xclr | xpush | xorc => rfl

theorem Block.Write.ks_eq (h : b.Write p i c) (hgen : ∀ n, i ≠ .gen n) (hkclr : i ≠ .kclr) (hkpush : ∀ bit, i ≠ .kpush bit)
    (hclr : i ≠ .clr) : c.ks = b.ks := by
  cases h with
  | gen n => exact absurd rfl (hgen n)
  | kclr => exact absurd rfl hkclr
  | kpush bit => exact absurd rfl (hkpush bit)
  | clr => exact absurd rfl hclr
  | keep | sclr | spush | stap | step | maskpx | xclr | xpush | xorc => rfl

theorem Block.Write.x_eq (h : b.Write p i c) (hxclr : i ≠ .xclr) (hxpush : ∀ bit, i ≠ .xpush bit) (hclr : i ≠ .clr) :
    c.x = b.x := by
  cases h with
  | xclr => exact absurd rfl hxclr
  | xpush bit => exact absurd rfl (hxpush bit)
  | clr => exact absurd rfl hclr
  | keep | sclr | spush | stap | step | maskpx | gen | kclr | kpush | xorc => rfl

theorem Block.Write.y_eq (h : b.Write p i c) (hxorc : i ≠ .xorc) (hclr : i ≠ .clr) : c.y = b.y := by
  cases h with
  | xorc => exact absurd rfl hxorc
  | clr => exact absurd rfl hclr
  | keep | sclr | spush | stap | step | maskpx | gen | kclr | kpush | xclr | xpush => rfl

/-- Settles O36: the frame of each component, from the inversion of the command's write. -/
theorem onlyListedCommandsWriteAComponent : Obligations.OnlyListedCommandsWriteAComponent := by
  unfold Obligations.OnlyListedCommandsWriteAComponent
  intro i s t h
  have hw := exec_write h
  refine ⟨hw.seed_eq, hw.tap_eq, hw.ksValid_eq, hw.ks_eq, hw.x_eq, hw.y_eq, ?channel⟩
  case channel =>
    rw [exec_next_inv h]
    exact ⟨rfl, _, rfl⟩

/-! The seed's width (R22). -/

theorem stepSeed_length_of_legal (h : b.tap.toNat < b.seed.length) :
    (stepSeed b.seed b.tap.toNat).length = b.seed.length :=
  stepSeed_length _ (List.ne_nil_of_length_pos (Nat.zero_lt_of_lt h))

/-- GEN keeps the seed's width and leaves one bit in the store for each of its steps. -/
theorem generateLoop_lengths_of_legal (h : b.tap.toNat < b.seed.length) (n : Nat) :
    (generateLoop b.tap.toNat n b.seed []).1.length = b.seed.length ∧
      (generateLoop b.tap.toNat n b.seed []).2.length = n := by
  obtain ⟨hseed, hks⟩ := generateLoop_lengths b.tap.toNat n b.seed [] (List.ne_nil_of_length_pos (Nat.zero_lt_of_lt h))
  exact ⟨hseed, hks.trans (Nat.zero_add n)⟩

theorem Block.Write.seed_length_eq (h : b.Write p i c) (hsclr : i ≠ .sclr) (hclr : i ≠ .clr)
    (hspush : ∀ bit, i ≠ .spush bit) : c.seed.length = b.seed.length := by
  cases h with
  | sclr => exact absurd rfl hsclr
  | clr => exact absurd rfl hclr
  | spush bit => exact absurd rfl (hspush bit)
  | step hlegal | maskpx _ _ _ hlegal => exact stepSeed_length_of_legal hlegal
  | gen n hlegal => exact (generateLoop_lengths_of_legal hlegal _).1
  | keep | stap | kclr | kpush | xclr | xpush | xorc => rfl

theorem Block.Write.of_spush {bit : Bit} (h : b.Write p (.spush bit) c) :
    c.seed.length = b.seed.length + 1 ∨ c = b := by
  cases h with
  | keep => exact .inr rfl
  | spush => exact .inl List.length_append

/-- Settles O35: the width after each command, from the inversion of its write. -/
theorem seedWidthChangesOnlyByItsCommands : Obligations.SeedWidthChangesOnlyByItsCommands := by
  unfold Obligations.SeedWidthChangesOnlyByItsCommands
  refine ⟨fun i s t h => ⟨?cleared, ?pushed, (exec_write h).seed_length_eq⟩, ?reset⟩
  case cleared =>
    rintro (rfl | rfl) <;> rw [exec_next_inv h] <;> rfl
  case pushed =>
    rintro ⟨bit, rfl⟩
    exact (exec_write h).of_spush
  case reset => exact fun s rest hs => ⟨_, step_reset hs, rfl⟩

end Sys2Proof.Machine
end

section
/-! PROOFS. The invariant of rules R20 and R24: it holds at reset, and every step keeps it; obligations O1, O38 and O39. -/

namespace Sys2Proof.Machine

/-- Settles O1: the reset values, and the two ways to reach them. -/
theorem resetsGiveTheResetValues : Obligations.ResetsGiveTheResetValues := by
  unfold Obligations.ResetsGiveTheResetValues
  refine ⟨⟨rfl, rfl, rfl, rfl, rfl, rfl⟩, ?external, ?clr⟩
  case external => exact fun _ _ hs => step_reset hs
  case clr => exact fun s => exec_eq_answer .clr s

theorem Block.reset_wf (p : Params) : Block.reset.Wf p :=
  ⟨Nat.zero_le _, Nat.zero_le _, Nat.zero_le _, Nat.zero_le _, fun _ => rfl⟩

/-- Settles O38: every sequence is empty. -/
theorem resetMeetsTheInvariant : Obligations.ResetMeetsTheInvariant := by
  unfold Obligations.ResetMeetsTheInvariant
  exact Block.reset_wf Config.params

/-- An append to a sequence that is within its capacity and not at it stays within the capacity. -/
theorem length_append_bit_le {q : Bits} {cap : Nat} (hle : q.length ≤ cap) (hne : q.length ≠ cap) (bit : Bit) :
    (q ++ [bit]).length ≤ cap := by
  rw [List.length_append]
  exact Nat.lt_of_le_of_ne hle hne

/-- Y is as long as the longer of the store and the input, so it fits when both do. -/
theorem combine_length_le {p : Params} {k x : Bits} (hk : k.length ≤ p.kmax) (hx : x.length ≤ p.xmax) :
    (combine k x).length ≤ max p.kmax p.xmax :=
  (combine_length k x).trans_le (max_le_max hk hx)

/-- Every write of a command keeps the block well formed: the check a write stands behind is what bounds the sequence it makes, and a
command that fills the store has it valid. -/
theorem Block.Write.wf {p : Params} {b c : Block} {i : Instr} (h : b.Write p i c) (hb : b.Wf p) : c.Wf p := by
  obtain ⟨hseed, hks, hx, hy, hstore⟩ := hb
  have hvalid {k : Bits} (hv : b.ksValid = true) (hf : b.ksValid = false) : k = [] := absurd (hv.symm.trans hf) (by decide)
  cases h with
  | keep => exact ⟨hseed, hks, hx, hy, hstore⟩
  | clr => exact Block.reset_wf p
  | sclr => exact ⟨Nat.zero_le _, hks, hx, hy, hstore⟩
  | spush bit hroom => exact ⟨length_append_bit_le hseed hroom bit, hks, hx, hy, hstore⟩
  | stap => exact ⟨hseed, hks, hx, hy, hstore⟩
  | step hlegal | maskpx _ _ _ hlegal =>
    exact ⟨(stepSeed_length_of_legal hlegal).trans_le hseed, hks, hx, hy, hstore⟩
  | gen n hlegal hfits =>
    obtain ⟨hwidth, hlength⟩ := generateLoop_lengths_of_legal hlegal n.toNat
    exact ⟨hwidth.trans_le hseed, hlength.trans_le hfits, hx, hy, nofun⟩
  | kclr => exact ⟨hseed, Nat.zero_le _, hx, hy, nofun⟩
  | kpush bit hv hroom => exact ⟨hseed, length_append_bit_le hks hroom bit, hx, hy, hvalid hv⟩
  | xclr => exact ⟨hseed, hks, Nat.zero_le _, hy, hstore⟩
  | xpush bit hroom => exact ⟨hseed, hks, length_append_bit_le hx hroom bit, hy, hstore⟩
  | xorc => exact ⟨hseed, hks, hx, combine_length_le hks hx, hstore⟩

/-- A transaction keeps the block well formed, whether the word decodes or not. -/
theorem resultOfWord_wf {p : Params} {b : Block} (w : CommandWord) (hb : b.Wf p) :
    ((resultOfWord p w b).block b).Wf p := by
  cases hw : decode w with
  | ok i =>
    rw [resultOfWord_ok p b hw]
    exact (resultOf_write p i b).wf hb
  | error e =>
    rw [resultOfWord_error p b hw]
    exact hb

/-- Settles O39, by the input the step takes: none, an external reset, or a command word. -/
theorem everyStepKeepsTheInvariant : Obligations.EveryStepKeepsTheInvariant := by
  unfold Obligations.EveryStepKeepsTheInvariant
  intro s t hs h
  match hp : s.pending with
  | [] =>
    obtain rfl := Host.Outcome.next.inj ((step_idle hp).symm.trans h)
    exact hs
  | .reset :: rest =>
    obtain rfl := Host.Outcome.next.inj ((step_reset hp).symm.trans h)
    exact Block.reset_wf Config.params
  | .command w :: rest =>
    obtain rfl := Host.Outcome.next.inj ((step_command hp).symm.trans h)
    exact resultOfWord_wf w hs

end Sys2Proof.Machine
end

section
/-! PROOFS. Non-interference of X (rules R25, R30): the results of a command from two blocks that differ in X only; obligation O37. -/

namespace Sys2Proof.Machine

/-- Two results with one response whose blocks differ in X only. -/
inductive Result.AgreeButX : Result → Result → Prop
  | respond (b : Block) (x : Bits) (d : Imm) : AgreeButX (.respond b d) (.respond { b with x := x } d)
  | raise (e : Error) (d : Imm) : AgreeButX (.raise e d) (.raise e d)

variable {r r' : Result}

theorem Result.AgreeButX.word_eq (h : r.AgreeButX r') : r'.word = r.word := by
  cases h <;> rfl

theorem Result.AgreeButX.block_eq (h : r.AgreeButX r') (b : Block) (x : Bits) :
    { r'.block { b with x := x } with x := (r.block b).x } = r.block b := by
  cases h <;> rfl

variable (b : Block) (x : Bits)

theorem readBit_agreeButX (q : Bits) (n : Imm) : (readBit q n b).AgreeButX (readBit q n { b with x := x }) := by
  unfold readBit
  split
  · exact .respond b x _
  · exact .raise _ _

theorem pushBit_agreeButX (q : Bits) (cap : Nat) : (pushBit q cap b).AgreeButX (pushBit q cap { b with x := x }) := by
  unfold pushBit
  split
  · exact .raise _ _
  · exact .respond b x 0

/-- The check reads the seed and the tap, which agree. -/
theorem checkSeedTap_agreeButX (h : r.AgreeButX r') :
    (checkSeedTap b r).AgreeButX (checkSeedTap { b with x := x } r') := by
  unfold checkSeedTap
  split
  · exact .raise _ _
  · split
    · exact .raise _ _
    · exact h

/-- The check reads KS_VALID, which agrees. -/
theorem checkStore_agreeButX (h : r.AgreeButX r') : (checkStore b r).AgreeButX (checkStore { b with x := x } r') := by
  unfold checkStore
  split
  · exact h
  · exact .raise _ _

theorem resultGen_agreeButX (p : Params) (n : Imm) :
    (resultGen p n b).AgreeButX (resultGen p n { b with x := x }) := by
  refine checkSeedTap_agreeButX b x ?_
  split
  · exact .raise _ _
  · exact .respond _ x 0

/-- No command but XORC and XPUSH reads X. -/
theorem resultOf_agreeButX (p : Params) (i : Instr) (hxorc : i ≠ .xorc) (hxpush : ∀ bit, i ≠ .xpush bit) :
    (resultOf p i b).AgreeButX (resultOf p i { b with x := x }) :=
  match i with
  | .nop | .sclr | .stap _ | .slen | .taprd | .kclr | .ylen => .respond _ x _
  | .clr | .xclr => .respond _ [] 0
  | .spush _ => pushBit_agreeButX _ x _ _
  | .srd n | .yrd n => readBit_agreeButX b x _ n
  | .step | .schk | .maskpx _ _ _ => checkSeedTap_agreeButX b x (.respond _ x _)
  | .gen n => resultGen_agreeButX b x p n
  | .kpush _ => checkStore_agreeButX b x (pushBit_agreeButX _ x _ _)
  | .krd n => checkStore_agreeButX b x (readBit_agreeButX b x _ n)
  | .klen => checkStore_agreeButX b x (.respond b x _)
  | .xorc => absurd rfl hxorc
  | .xpush bit => absurd rfl (hxpush bit)

/-- Settles O37: the two results agree but in X. -/
theorem inputBitsAreNotReadBack : Obligations.InputBitsAreNotReadBack := by
  unfold Obligations.InputBitsAreNotReadBack
  intro i s t x hxorc hxpush h
  have hagree := resultOf_agreeButX s.block x Config.params i hxorc hxpush
  rw [exec_next_inv h]
  refine ⟨_, exec_eq_answer i _, ?responses, rfl, hagree.block_eq s.block x⟩
  case responses => simp only [State.answer_responses, hagree.word_eq]

end Sys2Proof.Machine
end

section
/-! PROOFS. The ports simulate the transaction level (rule R64): what a command in flight still owes is kept by every cycle; obligation
O59. -/

namespace Sys2Proof.Machine

variable (p : Params)

theorem transactAll_length (ws : List CommandWord) (b : Block) : (transactAll p ws b).2.length = ws.length := by
  induction ws generalizing b with
  | nil => rfl
  | cons w ws ih => rw [transactAll, List.length_cons, List.length_cons, ih]

/-- What the transaction level gives from a port state on the words accepted from then on: the block after them, and the responses not
yet delivered. The simulation: a word in progress still stands first among the words, and a response that waits first among the
responses. -/
def PortState.outcome (s : PortState) (ws : List CommandWord) : Block × List ResponseWord :=
  match s.phase with
  | .idle => transactAll p ws s.block
  | .busy w _ => transactAll p (w :: ws) s.block
  | .responding r => ((transactAll p ws s.block).1, r :: (transactAll p ws s.block).2)

variable {s : PortState}

theorem PortState.outcome_idle (hs : s.phase = .idle) (ws : List CommandWord) :
    s.outcome p ws = transactAll p ws s.block := by
  rw [outcome, hs]

theorem PortState.outcome_busy {w : CommandWord} {left : Nat} (hs : s.phase = .busy w left) (ws : List CommandWord) :
    s.outcome p ws = transactAll p (w :: ws) s.block := by
  rw [outcome, hs]

theorem PortState.outcome_responding {r : ResponseWord} (hs : s.phase = .responding r) (ws : List CommandWord) :
    s.outcome p ws = ((transactAll p ws s.block).1, r :: (transactAll p ws s.block).2) := by
  rw [outcome, hs]

/-- At most the response of the one command in flight is owed, and none when the ports are ready for a command. -/
theorem PortState.outcome_nil_length_le (s : PortState) : (s.outcome p []).2.length ≤ 1 := by
  cases hs : s.phase with
  | idle => rw [outcome_idle p hs]; exact Nat.zero_le 1
  | busy w left => rw [outcome_busy p hs]; exact Nat.le_refl 1
  | responding r => rw [outcome_responding p hs]; exact Nat.le_refl 1

theorem PortState.outcome_nil_of_cmdReady (h : s.cmdReady = true) : s.outcome p [] = (s.block, []) := by
  cases hs : s.phase with
  | idle => rw [outcome_idle p hs, transactAll]
  | busy w left => simp [cmdReady, hs] at h
  | responding r => simp [cmdReady, hs] at h

/-- Whatever its latency, a word in flight ends as its transaction does. -/
theorem advance_outcome (w : CommandWord) (b : Block) (left : Nat) (ws : List CommandWord) :
    (advance p w b left).outcome p ws = transactAll p (w :: ws) b := by
  cases left <;> rfl

/-- One cycle: the outcome from before it is what the cycle delivers and then the outcome from after it. -/
theorem outcome_clock {i : PortIn} (hi : i.rst = false) (ws : List CommandWord) :
    s.outcome p ((accepted? s i).toList ++ ws) =
      (((clock p s i).outcome p ws).1, (delivered? s i).toList ++ ((clock p s i).outcome p ws).2) := by
  cases hs : s.phase with
  | idle =>
    rw [s.outcome_idle p hs, accepted?_idle hi hs, delivered?_idle i hs, clock_idle p hi hs]
    by_cases hv : i.cmdValid = true
    · rw [if_pos hv, if_pos hv, advance_outcome]
      rfl
    · rw [if_neg hv, if_neg hv, s.outcome_idle p hs]
      rfl
  | busy w left =>
    rw [s.outcome_busy p hs, accepted?_busy i hs, delivered?_busy i hs, clock_busy p hi hs, advance_outcome]
    rfl
  | responding r =>
    rw [s.outcome_responding p hs, accepted?_responding i hs, delivered?_responding hi hs, clock_responding p hi hs]
    by_cases hr : i.rspReady = true
    · rw [if_pos hr, if_pos hr]
      rfl
    · rw [if_neg hr, if_neg hr, s.outcome_responding p hs]
      rfl

/-- A run of cycles: the outcome on the words it accepts is what it delivers and then what its last state still owes. -/
theorem outcome_acceptedAll {cycles : List PortIn} (hc : ∀ i ∈ cycles, i.rst = false) (s : PortState) :
    s.outcome p (acceptedAll p cycles s) =
      (((clockAll p cycles s).outcome p []).1, deliveredAll p cycles s ++ ((clockAll p cycles s).outcome p []).2) := by
  induction cycles generalizing s with
  | nil => rfl
  | cons i rest ih =>
    obtain ⟨hi, hrest⟩ := List.forall_mem_cons.1 hc
    rw [acceptedAll, outcome_clock p hi, ih hrest, deliveredAll, clockAll, List.append_assoc]

/-- Settles O59: what the run's last state still owes is at most one response, and nothing once it is ready for a command. -/
theorem portsRefineTheTransactionLevel : Obligations.PortsRefineTheTransactionLevel := by
  unfold Obligations.PortsRefineTheTransactionLevel
  intro p cycles b hc words final delivered
  have hrun : transactAll p words b = ((final.outcome p []).1, delivered ++ (final.outcome p []).2) :=
    outcome_acceptedAll p hc ⟨b, .idle⟩
  refine ⟨?pref, ?missing, ?ready⟩
  case pref =>
    rw [hrun]
    exact List.prefix_append _ _
  case missing =>
    rw [← transactAll_length p words b, hrun, List.length_append]
    exact Nat.add_le_add_left (final.outcome_nil_length_le p) _
  case ready =>
    intro hready
    rw [hrun, final.outcome_nil_of_cmdReady p hready]
    exact ⟨(List.append_nil _).symm, rfl⟩

end Sys2Proof.Machine
end

section
/-! PROOFS. The read commands and SCHK have no write (rule R57); obligation O34. -/

namespace Sys2Proof.Machine

/-- The commands of rule R57. -/
def WritesNoState (i : Instr) : Prop :=
  (∃ n, i = .srd n) ∨ i = .slen ∨ i = .taprd ∨ (∃ n, i = .krd n) ∨ i = .klen ∨ (∃ n, i = .yrd n) ∨ i = .ylen ∨ i = .schk

/-- The only write of a command of rule R57 is to keep the block. -/
theorem Block.Write.eq_of_writesNoState {p : Params} {b c : Block} {i : Instr} (h : b.Write p i c)
    (hi : WritesNoState i) : c = b := by
  obtain ⟨n, rfl⟩ | rfl | rfl | ⟨n, rfl⟩ | rfl | ⟨n, rfl⟩ | rfl | rfl := hi <;> cases h <;> rfl

theorem exec_of_writesNoState {i : Instr} (hi : WritesNoState i) (s : State) :
    exec i s = .next (Stated.answered s s.block (resultOf Config.params i s.block).word) := by
  have hblock := (resultOf_write Config.params i s.block).eq_of_writesNoState hi
  rw [exec_eq_answer, State.answer, hblock]
  rfl

/-- Settles O34: the response is the result of the command on the block, and the block is the same when the command is repeated. -/
theorem readsHaveNoSideEffects : Obligations.ReadsHaveNoSideEffects := by
  unfold Obligations.ReadsHaveNoSideEffects
  intro i s hi
  exact ⟨_, exec_of_writesNoState hi s, exec_of_writesNoState hi (Stated.answered s s.block _)⟩

end Sys2Proof.Machine
end

section
/-! PROOFS. Decoding an encoded command (rules R70, R72, R73); obligation O5. -/

namespace Sys2Proof

open Sys2Proof.Machine

/-- A command survives encoding and decoding: the OP field selects the command's arm of the decoder (R74), and the arm reads from IMM
the operands the encoder put there (R72). -/
theorem decode_encode (i : Instr) : decode (encode i) = .ok i := by
  cases i with
  | nop | clr | sclr | step | schk | slen | taprd | kclr | klen | xclr | xorc | ylen => rfl
  | spush b | kpush b | xpush b => cases b <;> rfl
  | stap u | srd u | gen u | krd u | yrd u => simp [encode, decode, formatU]
  | maskpx r g b => simpa [encode, decode, formatP] using channels_commandWord 0x40 r g b

theorem encode_injective : Function.Injective encode := fun i j h =>
  Except.ok.inj (by rw [← decode_encode i, h, decode_encode])

/-- Settles O5: the round trip, by the command. -/
theorem decodeOfEncodeIsTheCommand : Obligations.DecodeOfEncodeIsTheCommand := by
  unfold Obligations.DecodeOfEncodeIsTheCommand
  exact decode_encode

end Sys2Proof
end

section
/-! PROOFS. The operand of each format read back into IMM (rules R72, R73), and what the decoder can do with a word, said once: one of
the four formats of rule R72, or a reserved OP; obligation O6. -/

namespace Sys2Proof

open Sys2Proof.Machine

/-- Format B's operand is bit 0 of the word, and so of IMM (R72). -/
theorem bitField_toNat (w : CommandWord) : (bitField w).toNat = w.toNat % 2 := by
  rw [bitField, BitVec.getLsbD, Nat.toNat_testBit, pow_zero, Nat.div_one]

theorem immOfBit_toNat (b : Bit) : (immOfBit b).toNat = b.toNat := by
  cases b <;> rfl

/-- The must-be-0 bits of format B, as a number: IMM[23:1] = 0 (R72). -/
theorem immField_ushiftRight_one_eq_zero_iff (w : CommandWord) : immField w >>> 1 = 0 ↔ (immField w).toNat / 2 = 0 := by
  rw [← BitVec.toNat_inj, BitVec.toNat_ushiftRight, Nat.shiftRight_eq_div_pow]
  rfl

/-- Format B drops no bit of IMM when its must-be-0 bits are 0 (R72). -/
theorem immOfBit_bitField {w : CommandWord} (h : immField w >>> 1 = 0) : immOfBit (bitField w) = immField w := by
  rw [immField_ushiftRight_one_eq_zero_iff, immField_toNat] at h
  apply BitVec.eq_of_toNat_eq
  rw [immOfBit_toNat, bitField_toNat, immField_toNat]
  omega

/-- Format P drops no bit of IMM (R72). -/
theorem pixelField_channels (w : CommandWord) : pixelField (redField w) (greenField w) (blueField w) = immField w := by
  apply BitVec.eq_of_toNat_eq
  rw [pixelField_toNat, redField_toNat, greenField_toNat, blueField_toNat, immField_toNat]
  omega

/-- The OPs of format N (R74, R76). -/
def formatNOps : List Nat := [0x00, 0x01, 0x10, 0x13, 0x14, 0x16, 0x17, 0x21, 0x24, 0x30, 0x32, 0x34]

/-- The OPs of format B (R74, R76). -/
def formatBOps : List Nat := [0x11, 0x22, 0x31]

/-- The OPs of formats U and P, which have no must-be-0 bit (R72, R74). -/
def formatUPOps : List Nat := [0x12, 0x15, 0x20, 0x23, 0x33, 0x40]

/-- The reserved ranges of OP (R76). -/
abbrev ReservedOp (op : Nat) : Prop :=
  (0x02 ≤ op ∧ op ≤ 0x0F) ∨ (0x18 ≤ op ∧ op ≤ 0x1F) ∨ (0x25 ≤ op ∧ op ≤ 0x2F) ∨ (0x35 ≤ op ∧ op ≤ 0x3F) ∨ 0x41 ≤ op

/-- What the decoder can do with a word and its OP: apply the OP's format to the command with that OP (R72, R74), or refuse a reserved OP
(R76). -/
inductive Decoding (w : CommandWord) (op : Byte) : Except IllegalWord Instr → Prop
  | formatN (i : Instr) (hop : op.toNat ∈ formatNOps) (hi : encode i = commandWord op 0) : Decoding w op (formatN w i)
  | formatB (i : Bit → Instr) (hop : op.toNat ∈ formatBOps) (hi : ∀ b, encode (i b) = commandWord op (immOfBit b)) :
      Decoding w op (formatB w i)
  | formatU (i : Imm → Instr) (hop : op.toNat ∈ formatUPOps) (hi : ∀ u, encode (i u) = commandWord op u) :
      Decoding w op (formatU w i)
  | formatP (i : Byte → Byte → Byte → Instr) (hop : op.toNat ∈ formatUPOps)
      (hi : ∀ r g b, encode (i r g b) = commandWord op (pixelField r g b)) : Decoding w op (formatP w i)
  | reserved (hop : ReservedOp op.toNat) : Decoding w op (.error .reservedOp)

theorem opField_eq {w : CommandWord} {op : Nat} (h : (opField w).toNat = op) : opField w = BitVec.ofNat 8 op := by
  rw [← h, BitVec.ofNat_toNat, BitVec.setWidth_eq]

/-- The decoder's arms, in the order of rule R74's table, gathered by their formats. -/
theorem decoding_decode (w : CommandWord) : Decoding w (opField w) (decode w) := by
  unfold decode
  split
  case h_1 h | h_2 h | h_3 h | h_6 h | h_7 h | h_9 h | h_10 h | h_12 h | h_15 h | h_16 h | h_18 h | h_20 h =>
    rw [opField_eq h]
    exact .formatN _ (by decide) rfl
  case h_4 h | h_13 h | h_17 h =>
    rw [opField_eq h]
    exact .formatB _ (by decide) fun _ => rfl
  case h_5 h | h_8 h | h_11 h | h_14 h | h_19 h =>
    rw [opField_eq h]
    exact .formatU _ (by decide) fun _ => rfl
  case h_21 h =>
    rw [opField_eq h]
    exact .formatP _ (by decide) fun _ _ _ => rfl
  case h_22 =>
    simp only [imp_false] at *
    exact .reserved (by omega)

theorem formatN_ok_iff {w : CommandWord} {i j : Instr} : formatN w i = .ok j ↔ immField w = 0 ∧ i = j := by
  unfold formatN
  split <;> simp_all

theorem formatB_ok_iff {w : CommandWord} {i : Bit → Instr} {j : Instr} :
    formatB w i = .ok j ↔ immField w >>> 1 = 0 ∧ i (bitField w) = j := by
  unfold formatB
  split <;> simp_all

/-- A command is encoded with the OP and the IMM it was decoded from, by the format of the word. -/
theorem encode_of_decode {w : CommandWord} {i : Instr} (h : decode w = .ok i) : encode i = w := by
  have hw := decoding_decode w
  generalize decode w = r at h hw
  rw [← commandWord_fields w]
  cases hw with
  | formatN j _ hj =>
    obtain ⟨himm, rfl⟩ := formatN_ok_iff.1 h
    rw [hj, himm]
  | formatB j _ hj =>
    obtain ⟨himm, rfl⟩ := formatB_ok_iff.1 h
    rw [hj, immOfBit_bitField himm]
  | formatU j _ hj =>
    obtain rfl := Except.ok.inj h
    exact hj _
  | formatP j _ hj =>
    obtain rfl := Except.ok.inj h
    rw [hj, pixelField_channels]
  | reserved => nomatch h

/-- Settles O6: the inversion of the decoder. -/
theorem encodeOfDecodeIsTheWord : Obligations.EncodeOfDecodeIsTheWord := by
  unfold Obligations.EncodeOfDecodeIsTheWord
  exact fun _ _ => encode_of_decode

end Sys2Proof
end

section
/-! PROOFS. The rows of the opcode map and the words that select them (rules R74, R75): the masks of the formats keep exactly the bits
that the operands leave fixed; obligation O4. -/

namespace Sys2Proof

open Sys2Proof.Machine

/-- The mask of format B keeps every bit but bit 0. -/
theorem and_maskB_toNat_div_two (w : CommandWord) : (w &&& 0xFFFFFFFE#32).toNat / 2 = w.toNat / 2 := by
  rw [BitVec.toNat_and, Nat.and_div_two]
  exact Nat.and_two_pow_sub_one_of_lt_two_pow (n := 31) (by omega)

/-- `w` is the word of a command with this mnemonic. -/
def EncodesAs (w : CommandWord) (mnemonic : String) : Prop := ∃ i : Instr, encode i = w ∧ i.mnemonic = mnemonic

/-- A word selected under the mask of format N is the command's one word. -/
theorem encodesAs_of_maskN (i : Instr) {w : CommandWord} (h : w &&& 0xFFFFFFFF#32 = encode i) : EncodesAs w i.mnemonic :=
  ⟨i, h.symm.trans BitVec.and_allOnes, rfl⟩

/-- A word selected under the mask of format B has the OP, and its bit 0 is all of IMM. -/
theorem encodesAs_of_maskB {op : Byte} {m : String} (i : Bit → Instr) (hi : ∀ b, encode (i b) = commandWord op (immOfBit b))
    (hm : ∀ b, (i b).mnemonic = m) {w : CommandWord} (h : w &&& 0xFFFFFFFE#32 = commandWord op 0) : EncodesAs w m := by
  refine ⟨i (bitField w), (hi _).trans (BitVec.eq_of_toNat_eq ?_), hm _⟩
  have hbits := and_maskB_toNat_div_two w
  rw [h, commandWord_toNat, BitVec.ofNat_eq_ofNat, BitVec.toNat_zero] at hbits
  rw [commandWord_toNat, immOfBit_toNat, bitField_toNat]
  omega

/-- A word selected under the mask of formats U and P has the OP, and any IMM. -/
theorem commandWord_immField_of_maskU {op : Byte} {w : CommandWord} (h : w &&& 0xFF000000#32 = commandWord op 0) :
    commandWord op (immField w) = w := by
  rw [← commandWord_fields w, Laws.EncodeRow.and_op_mask] at h
  have hop := congrArg opField h
  rw [opField_commandWord, opField_commandWord] at hop
  rw [← hop, commandWord_fields]

theorem encodesAs_of_maskU {op : Byte} {m : String} (i : Imm → Instr) (hi : ∀ u, encode (i u) = commandWord op u)
    (hm : ∀ u, (i u).mnemonic = m) {w : CommandWord} (h : w &&& 0xFF000000#32 = commandWord op 0) : EncodesAs w m :=
  ⟨i (immField w), (hi _).trans (commandWord_immField_of_maskU h), hm _⟩

theorem encodesAs_maskpx {w : CommandWord} (h : w &&& 0xFF000000#32 = commandWord 0x40 0) : EncodesAs w "MASKPX" := by
  refine ⟨.maskpx (redField w) (greenField w) (blueField w), ?_, rfl⟩
  rw [encode, pixelField_channels, commandWord_immField_of_maskU h]

/-- A word that selects a row is the word of a command with the row's mnemonic, row by row. -/
theorem encodesAs_of_selects (w : CommandWord) : ∀ row ∈ opcodeMap, w &&& row.mask = row.pattern → EncodesAs w row.mnemonic := by
  simp only [opcodeMap, opcodeMapLow, opcodeMapHigh, List.forall_mem_append, List.forall_mem_cons]
  refine ⟨⟨encodesAs_of_maskN .nop, encodesAs_of_maskN .clr, encodesAs_of_maskN .sclr, ?spush, ?stap, encodesAs_of_maskN .step,
      encodesAs_of_maskN .schk, ?srd, encodesAs_of_maskN .slen, encodesAs_of_maskN .taprd, List.forall_mem_nil _⟩,
    ?gen, encodesAs_of_maskN .kclr, ?kpush, ?krd, encodesAs_of_maskN .klen, encodesAs_of_maskN .xclr, ?xpush,
    encodesAs_of_maskN .xorc, ?yrd, encodesAs_of_maskN .ylen, ?maskpx, List.forall_mem_nil _⟩
  case spush => exact encodesAs_of_maskB (op := 0x11) .spush (fun _ => rfl) (fun _ => rfl)
  case stap => exact encodesAs_of_maskU (op := 0x12) .stap (fun _ => rfl) (fun _ => rfl)
  case srd => exact encodesAs_of_maskU (op := 0x15) .srd (fun _ => rfl) (fun _ => rfl)
  case gen => exact encodesAs_of_maskU (op := 0x20) .gen (fun _ => rfl) (fun _ => rfl)
  case kpush => exact encodesAs_of_maskB (op := 0x22) .kpush (fun _ => rfl) (fun _ => rfl)
  case krd => exact encodesAs_of_maskU (op := 0x23) .krd (fun _ => rfl) (fun _ => rfl)
  case xpush => exact encodesAs_of_maskB (op := 0x31) .xpush (fun _ => rfl) (fun _ => rfl)
  case yrd => exact encodesAs_of_maskU (op := 0x33) .yrd (fun _ => rfl) (fun _ => rfl)
  case maskpx => exact encodesAs_maskpx

/-- The word of every command selects a row with its mnemonic (R74). -/
theorem encode_selects_row (i : Instr) : Laws.EncodeRow.Statement i :=
  match i with
  | .nop => Laws.EncodeRow.nop
  | .clr => Laws.EncodeRow.clr
  | .sclr => Laws.EncodeRow.sclr
  | .spush b => Laws.EncodeRow.spush b
  | .stap u => Laws.EncodeRow.stap u
  | .step => Laws.EncodeRow.step
  | .schk => Laws.EncodeRow.schk
  | .srd n => Laws.EncodeRow.srd n
  | .slen => Laws.EncodeRow.slen
  | .taprd => Laws.EncodeRow.taprd
  | .gen n => Laws.EncodeRow.gen n
  | .kclr => Laws.EncodeRow.kclr
  | .kpush b => Laws.EncodeRow.kpush b
  | .krd n => Laws.EncodeRow.krd n
  | .klen => Laws.EncodeRow.klen
  | .xclr => Laws.EncodeRow.xclr
  | .xpush b => Laws.EncodeRow.xpush b
  | .xorc => Laws.EncodeRow.xorc
  | .yrd n => Laws.EncodeRow.yrd n
  | .ylen => Laws.EncodeRow.ylen
  | .maskpx r g b => Laws.EncodeRow.maskpx r g b

theorem opcodeMap_mnemonics_nodup : (opcodeMap.map OpRow.mnemonic).Nodup := by decide

/-- Settles O4: a row is selected by the words of the commands with its mnemonic, and a word is the word of one command at most. -/
theorem decodingFollowsTheOpcodeMap : Obligations.DecodingFollowsTheOpcodeMap := by
  unfold Obligations.DecodingFollowsTheOpcodeMap
  intro w
  refine ⟨?decodes, ?selects, ?unique⟩
  case decodes =>
    intro row hrow hsel
    obtain ⟨i, rfl, hm⟩ := encodesAs_of_selects w row hrow hsel
    exact ⟨i, decode_encode i, hm⟩
  case selects =>
    intro i hi
    obtain ⟨row, hrow, -, hsel, hm⟩ := encode_selects_row i
    rw [encode_of_decode hi] at hsel
    exact ⟨row, hrow, hsel, hm.symm⟩
  case unique =>
    intro row hrow row' hrow' hsel hsel'
    obtain ⟨i, hi, hm⟩ := encodesAs_of_selects w row hrow hsel
    obtain ⟨i', hi', hm'⟩ := encodesAs_of_selects w row' hrow' hsel'
    obtain rfl := encode_injective (hi.trans hi'.symm)
    exact List.inj_on_of_nodup_map opcodeMap_mnemonics_nodup hrow hrow' (hm.symm.trans hm')

end Sys2Proof
end

section
/-! PROOFS. The illegal encodings (rules R76, R207): a word decodes exactly when it is none of them, and a command that was decoded never
raises IllegalCommand; obligation O7. -/

namespace Sys2Proof.Machine

/-- The illegal encodings of rule R76, by OP and IMM. -/
def IllegalFields (op imm : Nat) : Prop :=
  ReservedOp op ∨ (op ∈ formatNOps ∧ imm ≠ 0) ∨ (op ∈ formatBOps ∧ imm / 2 ≠ 0)

theorem not_illegalFields_formatN : ∀ op ∈ formatNOps, ∀ imm, ¬ IllegalFields op imm ↔ imm = 0 := by
  have hN : ∀ op ∈ formatNOps, ¬ ReservedOp op ∧ op ∉ formatBOps := by decide
  intro op hop imm
  simp [IllegalFields, hop, hN op hop]

theorem not_illegalFields_formatB : ∀ op ∈ formatBOps, ∀ imm, ¬ IllegalFields op imm ↔ imm / 2 = 0 := by
  have hB : ∀ op ∈ formatBOps, ¬ ReservedOp op ∧ op ∉ formatNOps := by decide
  intro op hop imm
  simp only [IllegalFields, hop, hB op hop, true_and, false_and, false_or, not_not]

theorem not_illegalFields_formatUP : ∀ op ∈ formatUPOps, ∀ imm, ¬ IllegalFields op imm := by
  have hUP : ∀ op ∈ formatUPOps, ¬ ReservedOp op ∧ op ∉ formatNOps ∧ op ∉ formatBOps := by decide
  intro op hop imm
  simp [IllegalFields, hUP op hop]

/-- A word decodes to a command exactly when its fields are not one of the illegal encodings (R75, R76). -/
theorem decode_ok_iff_not_illegal (w : CommandWord) :
    (∃ i, decode w = .ok i) ↔ ¬ IllegalFields (w.toNat / 2 ^ 24) (w.toNat % 2 ^ 24) := by
  rw [← opField_toNat, ← immField_toNat]
  have hw := decoding_decode w
  generalize decode w = r at hw ⊢
  cases hw with
  | formatN i hop => simp [formatN_ok_iff, not_illegalFields_formatN _ hop, ← BitVec.toNat_inj]
  | formatB i hop =>
    rw [not_illegalFields_formatB _ hop, ← immField_ushiftRight_one_eq_zero_iff]
    simp [formatB_ok_iff]
  | formatU i hop => simp [formatU, not_illegalFields_formatUP _ hop]
  | formatP i hop => simp [formatP, not_illegalFields_formatUP _ hop]
  | reserved hop => simp [IllegalFields, hop]

/-- The errors a command may raise (R202, R203, R205, R206, R208): IllegalCommand answers a word that is no command (R207), and
ImageNotFound is the host's (R204). -/
def commandErrors : List Error := [.invalidTap, .keystreamNotFound, .malformedSeed, .capacityExceeded, .indexOutOfRange]

/-- A result a command may end with. -/
def Result.OfCommand : Result → Prop
  | .respond _ _ => True
  | .raise e _ => e ∈ commandErrors

@[simp] theorem Result.ofCommand_respond (b : Block) (d : Imm) : (Result.respond b d).OfCommand := trivial

@[simp] theorem Result.ofCommand_raise (e : Error) (d : Imm) : (Result.raise e d).OfCommand ↔ e ∈ commandErrors := Iff.rfl

theorem Result.OfCommand.code_ne_illegalCommand {r : Result} (h : r.OfCommand) : codeField r.word ≠ 0x06 := by
  have hcodes : ∀ e ∈ commandErrors, e.code ≠ 0x06 := by decide
  cases r with
  | respond b d =>
    rw [Result.word_respond, codeField_responseWord]
    decide
  | raise e d =>
    rw [Result.word_raise, codeField_responseWord]
    exact hcodes e h

theorem readBit_ofCommand (q : Bits) (i : Imm) (b : Block) : (readBit q i b).OfCommand := by
  obtain ⟨v, -, h⟩ | ⟨-, h⟩ := readBit_cases q i b <;> simp [h, commandErrors]

theorem pushBit_ofCommand (q : Bits) (cap : Nat) (b : Block) : (pushBit q cap b).OfCommand := by
  obtain ⟨-, h⟩ | ⟨-, h⟩ := pushBit_cases q cap b <;> simp [h, commandErrors]

theorem checkSeedTap_ofCommand {b : Block} {r : Result} (hr : r.OfCommand) : (checkSeedTap b r).OfCommand := by
  obtain ⟨-, h⟩ | ⟨-, -, h⟩ | ⟨-, h⟩ := checkSeedTap_cases b r <;> simp [h, hr, commandErrors]

theorem checkStore_ofCommand {b : Block} {r : Result} (hr : r.OfCommand) : (checkStore b r).OfCommand := by
  obtain ⟨-, h⟩ | ⟨-, h⟩ := checkStore_cases b r <;> simp [h, hr, commandErrors]

theorem resultGen_ofCommand (p : Params) (n : Imm) (b : Block) : (resultGen p n b).OfCommand := by
  refine checkSeedTap_ofCommand ?_
  split <;> simp [commandErrors]

/-- Every command is one of the shared operations, or responds at once. -/
theorem resultOf_ofCommand (p : Params) (i : Instr) (b : Block) : (resultOf p i b).OfCommand :=
  match i with
  | .nop | .clr | .sclr | .stap _ | .slen | .taprd | .kclr | .xclr | .ylen => trivial
  | .spush _ | .xpush _ => pushBit_ofCommand _ _ _
  | .srd _ | .yrd _ => readBit_ofCommand _ _ _
  | .step | .schk | .maskpx _ _ _ => checkSeedTap_ofCommand trivial
  | .gen n => resultGen_ofCommand p n b
  | .kpush _ => checkStore_ofCommand (pushBit_ofCommand _ _ _)
  | .krd _ => checkStore_ofCommand (readBit_ofCommand _ _ _)
  | .klen | .xorc => checkStore_ofCommand trivial

/-- Settles O7: the illegal encodings are the words that do not decode, and a decoded command's code is another. -/
theorem illegalEncodingsAnswerIllegalCommand : Obligations.IllegalEncodingsAnswerIllegalCommand := by
  unfold Obligations.IllegalEncodingsAnswerIllegalCommand
  intro s w rest hs
  have hlegal := decode_ok_iff_not_illegal w
  refine ⟨?illegal, ?legal⟩
  case illegal =>
    intro hill
    cases hw : decode w with
    | ok i => exact absurd hill (hlegal.1 ⟨i, hw⟩)
    | error e => exact step_command_error hs hw
  case legal =>
    intro hnot
    obtain ⟨i, hw⟩ := hlegal.2 hnot
    refine ⟨_, _, step_command hs, rfl, ?_⟩
    rw [resultOfWord_ok _ _ hw]
    exact (resultOf_ofCommand _ i _).code_ne_illegalCommand

end Sys2Proof.Machine
end

section
/-! PROOFS. The loads run (rules R80, R159, R178): a clearing command and then one push a bit, for any of the three sequences;
obligation O55. -/

namespace Sys2Proof.Machine

/-- The transaction of a command's word is the command (R18). -/
theorem transact_encode (p : Params) (i : Instr) (b : Block) :
    transact p (encode i) b = ((resultOf p i b).block b, (resultOf p i b).word) := by
  rw [transact, resultOfWord_ok p b (decode_encode i)]

theorem resultOf_spush_of_room {p : Params} {b : Block} (bit : Bit) (h : b.seed.length ≠ p.lmax) :
    resultOf p (.spush bit) b = .respond { b with seed := b.seed ++ [bit] } 0 := pushBit_of_room h

theorem resultOf_kpush_of_room {p : Params} {b : Block} (bit : Bit) (hv : b.ksValid = true) (h : b.ks.length ≠ p.kmax) :
    resultOf p (.kpush bit) b = .respond { b with ks := b.ks ++ [bit] } 0 :=
  (checkStore_of_valid hv).trans (pushBit_of_room h)

theorem resultOf_xpush_of_room {p : Params} {b : Block} (bit : Bit) (h : b.x.length ≠ p.xmax) :
    resultOf p (.xpush bit) b = .respond { b with x := b.x ++ [bit] } 0 := pushBit_of_room h

/-- Pushing a literal bit by bit: `loaded q` is the block whose sequence is `q`, and below the capacity a push appends its bit. -/
theorem transactAll_push {p : Params} {push : Bit → Instr} {loaded : Bits → Block} {cap : Nat}
    (hpush : ∀ q bit, q.length < cap → resultOf p (push bit) (loaded q) = .respond (loaded (q ++ [bit])) 0)
    (s q : Bits) (hcap : q.length + s.length ≤ cap) :
    transactAll p ((s.map push).map encode) (loaded q) = (loaded (q ++ s), List.replicate s.length 0x00000000#32) := by
  induction s generalizing q with
  | nil => simp [transactAll]
  | cons bit s ih =>
    rw [List.length_cons] at hcap
    have hbit : transact p (encode (push bit)) (loaded q) = (loaded (q ++ [bit]), 0x00000000#32) := by
      rw [transact_encode, hpush q bit (by omega)]
      rfl
    have hrest := ih (q ++ [bit]) (by rw [List.length_append, List.length_singleton]; omega)
    rw [List.map_cons, List.map_cons, transactAll, hbit, hrest, List.append_assoc]
    rfl

/-- A load: the clearing command empties the sequence, and the pushes fill it. -/
theorem transactAll_load {p : Params} {b : Block} {clear : Instr} {push : Bit → Instr} {loaded : Bits → Block} {cap : Nat}
    (hclear : resultOf p clear b = .respond (loaded []) 0)
    (hpush : ∀ q bit, q.length < cap → resultOf p (push bit) (loaded q) = .respond (loaded (q ++ [bit])) 0)
    {s : Bits} (hcap : s.length ≤ cap) :
    transactAll p ((clear :: s.map push).map encode) b = (loaded s, List.replicate (s.length + 1) 0x00000000#32) := by
  have hempty : transact p (encode clear) b = (loaded [], 0x00000000#32) := by
    rw [transact_encode, hclear]
    rfl
  have hbits := transactAll_push hpush s [] (by rwa [List.length_nil, Nat.zero_add])
  rw [List.map_cons, transactAll, hempty, hbits]
  rfl

/-- Settles O55: the expansions are R80's table, and each load is a clearing command and its pushes. -/
theorem pseudoInstructionsExpandAndLoad : Obligations.PseudoInstructionsExpandAndLoad := by
  unfold Obligations.PseudoInstructionsExpandAndLoad
  refine ⟨⟨rfl, rfl, fun _ _ _ => ⟨rfl, rfl⟩, fun _ _ _ => rfl, fun _ => rfl, fun _ => rfl, fun _ => rfl, rfl⟩, ?_⟩
  intro p b s
  refine ⟨transactAll_load (loaded := fun q => { b with seed := q }) rfl fun q bit hq => ?seed,
    transactAll_load (loaded := fun q => { b with ks := q, ksValid := true }) rfl fun q bit hq => ?keystream,
    transactAll_load (loaded := fun q => { b with x := q }) rfl fun q bit hq => ?input⟩
  case seed => exact resultOf_spush_of_room bit hq.ne
  case keystream => exact resultOf_kpush_of_room bit rfl hq.ne
  case input => exact resultOf_xpush_of_room bit hq.ne

end Sys2Proof.Machine
end

section
/-! PROOFS. The worked encodings of rule R81; obligation O3. -/

namespace Sys2Proof.Machine

/-- Settles O3: each word is the word of its command, and the last word's must-be-0 bit is set. -/
theorem workedEncodingsDecode : Obligations.WorkedEncodingsDecode := by
  unfold Obligations.WorkedEncodingsDecode
  exact ⟨decode_encode (.spush true), decode_encode (.stap 2), decode_encode (.gen 5), decode_encode (.maskpx 0x10 0x20 0x30),
    decode_encode .xorc, rfl, rfl, rfl, rfl, rfl, fun _ _ hs => step_command_error hs (e := .mustBeZero) rfl⟩

end Sys2Proof.Machine
end

section
/-! PROOFS. The operands the assembler takes (rules R72, R73, R79); obligation O57. -/

namespace Sys2Proof

/-- An operand's check takes exactly the numbers below its bound, and takes each as itself. -/
def Fits {α : Type} (bound : Nat) (value : α → Nat) (operand? : Nat → Option α) : Prop :=
  ∀ n, (n < bound → ∃ a, value a = n ∧ operand? n = some a) ∧ (bound ≤ n → operand? n = none)

theorem fits_immOperand? : Fits (2 ^ 24) BitVec.toNat immOperand? := fun n =>
  ⟨fun h => ⟨BitVec.ofNat 24 n, Nat.mod_eq_of_lt h, if_pos h⟩, fun h => if_neg (Nat.not_lt.2 h)⟩

theorem fits_channelOperand? : Fits 256 BitVec.toNat channelOperand? := fun n =>
  ⟨fun h => ⟨BitVec.ofNat 8 n, Nat.mod_eq_of_lt h, if_pos h⟩, fun h => if_neg (Nat.not_lt.2 h)⟩

theorem fits_bitOperand? : Fits 2 Bool.toNat bitOperand? := fun n =>
  match n with
  | 0 => ⟨fun _ => ⟨false, rfl, rfl⟩, fun h => absurd h (by decide)⟩
  | 1 => ⟨fun _ => ⟨true, rfl, rfl⟩, fun h => absurd h (by decide)⟩
  | n + 2 => ⟨fun h => absurd h (by omega), fun h => if_neg (Nat.not_lt.2 h)⟩

/-- A command with one operand is refused exactly when its operand is. -/
theorem Fits.map {α : Type} {bound : Nat} {value : α → Nat} {operand? : Nat → Option α} (h : Fits bound value operand?)
    (i : α → Instr) (n : Nat) :
    (n < bound → ∃ a, value a = n ∧ (operand? n).map i = some (i a)) ∧ (bound ≤ n → (operand? n).map i = none) := by
  obtain ⟨htake, hrefuse⟩ := h n
  constructor
  · intro hn
    obtain ⟨a, ha, hsome⟩ := htake hn
    exact ⟨a, ha, by rw [hsome, Option.map_some]⟩
  · intro hn
    rw [hrefuse hn, Option.map_none]

/-- The commands of format U (R74). -/
theorem ofOperands?_formatU (n : Nat) :
    ∀ row ∈ [("STAP", Instr.stap), ("SRD", Instr.srd), ("GEN", Instr.gen), ("KRD", Instr.krd), ("YRD", Instr.yrd)],
      Instr.ofOperands? row.1 [n] = (immOperand? n).map row.2 := by
  simp [Instr.ofOperands?]

/-- The commands of format B (R74). -/
theorem ofOperands?_formatB (n : Nat) :
    ∀ row ∈ [("SPUSH", Instr.spush), ("KPUSH", Instr.kpush), ("XPUSH", Instr.xpush)],
      Instr.ofOperands? row.1 [n] = (bitOperand? n).map row.2 := by
  simp [Instr.ofOperands?]

/-- The command of format P takes its three channels (R72, R79). -/
theorem ofOperands?_maskpx_of_lt {r g b : Nat} (hr : r < 256) (hg : g < 256) (hb : b < 256) :
    ∃ r' g' b' : Byte, r'.toNat = r ∧ g'.toNat = g ∧ b'.toNat = b ∧
      Instr.ofOperands? "MASKPX" [r, g, b] = some (.maskpx r' g' b') := by
  obtain ⟨r', hr', hr⟩ := (fits_channelOperand? r).1 hr
  obtain ⟨g', hg', hg⟩ := (fits_channelOperand? g).1 hg
  obtain ⟨b', hb', hb⟩ := (fits_channelOperand? b).1 hb
  exact ⟨r', g', b', hr', hg', hb', by simp [Instr.ofOperands?, hr, hg, hb]⟩

/-- The command of format P is refused when one of its channels is (R79). -/
theorem ofOperands?_maskpx_of_le {r g b : Nat} (h : 256 ≤ r ∨ 256 ≤ g ∨ 256 ≤ b) :
    Instr.ofOperands? "MASKPX" [r, g, b] = none := by
  obtain h | h | h := h <;> simp [Instr.ofOperands?, (fits_channelOperand? _).2 h]

/-- Settles O57: the operand checks of the three formats, and the commands that use them. -/
theorem assemblerOperandsFitTheirFields : Obligations.AssemblerOperandsFitTheirFields := by
  unfold Obligations.AssemblerOperandsFitTheirFields
  refine ⟨?formatU, ?formatB, ?formatP⟩
  case formatU =>
    intro n row hrow
    rw [ofOperands?_formatU n row hrow]
    exact fits_immOperand?.map row.2 n
  case formatB =>
    intro n row hrow
    rw [ofOperands?_formatB n row hrow]
    exact fits_bitOperand?.map row.2 n
  case formatP => exact fun r g b => ⟨ofOperands?_maskpx_of_lt, ofOperands?_maskpx_of_le⟩

end Sys2Proof
end

section
/-! PROOFS. How a command's result reaches the host, as the statements write it (rules R56, R71); then what SCLR, XCLR and STAP write and
what SLEN, TAPRD and YLEN answer; obligations O10, O12 and O16. -/

namespace Sys2Proof.Machine

/-- A command with a known result leaves the result's block and answers its word, and touches nothing else. -/
theorem exec_of_result {i : Instr} {s : State} {r : Result} (h : resultOf Config.params i s.block = r) :
    exec i s = .next (Stated.answered s (r.block s.block) r.word) := by
  rw [exec_eq_answer, h]
  rfl

/-- A 24-bit value is its own number in DATA (R14). -/
theorem responseWord_eq_errWord (code : Byte) (d : Imm) : responseWord code d = Stated.errWord code d.toNat := by
  rw [Stated.errWord, BitVec.ofNat_toNat, BitVec.setWidth_eq]
  rfl

/-- Settles O10: each clear responds 0 with its one write. -/
theorem clearsEmptyTheirSequence : Obligations.ClearsEmptyTheirSequence := by
  unfold Obligations.ClearsEmptyTheirSequence
  exact ⟨decode_encode .sclr, decode_encode .xclr,
    fun _ => ⟨exec_of_result (i := .sclr) rfl, exec_of_result (i := .xclr) rfl⟩⟩

/-- Settles O12: STAP has no check. -/
theorem stapStoresAnyTap : Obligations.StapStoresAnyTap := by
  unfold Obligations.StapStoresAnyTap
  exact fun u => ⟨decode_encode (.stap u), fun _ => exec_of_result (i := .stap u) rfl⟩

theorem exec_taprd (s : State) : exec .taprd s = .next (Stated.answered s s.block (Stated.okWord s.block.tap.toNat)) := by
  have hword : responseWord 0x00 s.block.tap = Stated.okWord s.block.tap.toNat := responseWord_eq_errWord _ _
  rw [← hword]
  exact exec_of_result (i := .taprd) rfl

theorem exec_ylen (s : State) : exec .ylen s = .next (Stated.answered s s.block (Stated.okWord s.block.y.length)) :=
  exec_of_result (i := .ylen) rfl

/-- Settles O16: each of the three responds with its value, and the values at reset are 0. -/
theorem slenTaprdYlenReadTheirValue : Obligations.SlenTaprdYlenReadTheirValue := by
  unfold Obligations.SlenTaprdYlenReadTheirValue
  exact ⟨decode_encode .slen, decode_encode .taprd, decode_encode .ylen,
    fun s => ⟨exec_of_result (i := .slen) rfl, exec_taprd s, exec_ylen s⟩, exec_taprd State.reset, exec_ylen State.reset⟩

end Sys2Proof.Machine
end

section
/-! PROOFS. SPUSH and the load of a seed (rules R51, R108), and the reads of one bit of S and Y (rules R112, R156); obligations O11 and
O15. -/

namespace Sys2Proof.Machine

theorem exec_spush_of_full {s : State} (bit : Bit) (h : s.block.seed.length = Config.params.lmax) :
    exec (.spush bit) s = .next (Stated.answered s s.block (Stated.errWord 0x05 Config.params.lmax)) :=
  exec_of_result (i := .spush bit) (pushBit_of_full h)

theorem exec_spush_of_room {s : State} (bit : Bit) (h : s.block.seed.length ≠ Config.params.lmax) :
    exec (.spush bit) s = .next (Stated.answered s { s.block with seed := s.block.seed ++ [bit] } 0x00000000#32) :=
  exec_of_result (resultOf_spush_of_room bit h)

/-- Settles O11: SPUSH by whether the seed is at its capacity, and the load of at most LMAX bits, none of whose pushes is refused. -/
theorem spushAppendsOneSeedBit : Obligations.SpushAppendsOneSeedBit := by
  unfold Obligations.SpushAppendsOneSeedBit
  refine ⟨decode_encode (.spush false), decode_encode (.spush true),
    fun s bit => ⟨exec_spush_of_full bit, exec_spush_of_room bit⟩, fun p b bits hfits => ?load⟩
  case load =>
    have hload := transactAll_load (p := p) (b := b) (clear := .sclr) (loaded := fun q => { b with seed := q }) rfl
      (fun _ bit hq => resultOf_spush_of_room bit hq.ne) hfits
    exact congrArg Prod.fst hload

/-- Y stays empty until an XORC: CLR empties it too, and no other command writes it (R26). -/
theorem Block.Write.y_eq_nil {p : Params} {b c : Block} {i : Instr} (h : b.Write p i c) (hxorc : i ≠ .xorc) (hb : b.y = []) :
    c.y = [] := by
  cases h with
  | clr => rfl
  | xorc => exact absurd rfl hxorc
  | keep | sclr | spush | stap | step | maskpx | gen | kclr | kpush | xclr | xpush => exact hb

theorem exec_yrd_of_le {s : State} {i : Imm} (h : s.block.y.length ≤ i.toNat) :
    exec (.yrd i) s = .next (Stated.answered s s.block (Stated.errWord 0x07 s.block.y.length)) :=
  exec_of_result (i := .yrd i) (readBit_of_le h)

/-- Settles O15: a read by whether its index is below the length, and the frame of Y. -/
theorem srdAndYrdReadOneBit : Obligations.SrdAndYrdReadOneBit := by
  unfold Obligations.SrdAndYrdReadOneBit
  refine ⟨fun i => ⟨decode_encode (.srd i), decode_encode (.yrd i)⟩, ?below, ?beyond, ?reset, ?empty⟩
  case below =>
    exact fun s i v => ⟨fun h => exec_of_result (i := .srd i) (readBit_of_getElem? h),
      fun h => exec_of_result (i := .yrd i) (readBit_of_getElem? h)⟩
  case beyond => exact fun s i => ⟨fun h => exec_of_result (i := .srd i) (readBit_of_le h), exec_yrd_of_le⟩
  case reset => exact fun i => exec_yrd_of_le (s := State.reset) (Nat.zero_le _)
  case empty => exact fun _ _ _ hxorc hy h => (exec_write h).y_eq_nil hxorc hy

end Sys2Proof.Machine
end

section
/-! PROOFS. The step function, its trajectory and the keystream, and their form under tap 0 (rules R100, R101, R104 to R106); obligations
O41 and O43. -/

namespace Sys2Proof.Machine

theorem stepSeed_eq_tail (s : Bits) (t : Nat) : stepSeed s t = s.tail ++ [feedback s t] := by
  rw [stepSeed, List.drop_one]

/-- The feedback is shifted in at the right end (R101). -/
theorem stepSeed_getElem?_last (s : Bits) (t : Nat) : (stepSeed s t)[s.length - 1]? = some (feedback s t) := by
  rw [stepSeed_eq_tail, ← List.length_tail, List.getElem?_concat_length]

/-- With tap 0 the first bit is XORed with itself (R104). -/
theorem feedback_tap_zero {s : Bits} (h : s ≠ []) : feedback s 0 = false := by
  obtain ⟨first, rest, rfl⟩ := List.exists_cons_of_ne_nil h
  rw [feedback_of_getElem? rfl rfl, Bool.xor_self]

theorem stepSeed_tap_zero {s : Bits} (h : s ≠ []) : stepSeed s 0 = s.tail ++ [false] := by
  rw [stepSeed_eq_tail, feedback_tap_zero h]

/-- Settles O41: the step is the tail and the feedback, and the one tap of a width-1 seed is 0. -/
theorem stepFunctionShiftsLeft : Obligations.StepFunctionShiftsLeft := by
  unfold Obligations.StepFunctionShiftsLeft
  refine ⟨fun s t first tapped hfirst htapped => ?shift, fun b => ?width1⟩
  case shift =>
    have hs : s ≠ [] := List.ne_nil_of_length_pos (List.getElem?_eq_some_iff.1 hfirst).1
    exact ⟨feedback_of_getElem? hfirst htapped, stepSeed_eq_tail s t, stepSeed_length t hs, stepSeed_getElem?_last s t⟩
  case width1 =>
    have hb : [b] ≠ [] := List.cons_ne_nil b []
    exact ⟨fun _ => Nat.lt_one_iff.1, feedback_tap_zero hb, stepSeed_tap_zero hb⟩

theorem trajectory_ne_nil {s : Bits} (t k : Nat) (h : s ≠ []) : trajectory s t k ≠ [] := by
  rw [← List.length_pos_iff, trajectory_length t k h]
  exact List.length_pos_iff.2 h

theorem trajectory_succ_getElem?_last {s : Bits} (t k : Nat) (h : s ≠ []) :
    (trajectory s t (k + 1))[s.length - 1]? = some (feedback (trajectory s t k) t) := by
  rw [trajectory, ← trajectory_length t k h]
  exact stepSeed_getElem?_last (trajectory s t k) t

/-- Settles O43: the trajectory's recursion, its width, and the last bit of each step. -/
theorem trajectoryKeepsTheWidth : Obligations.TrajectoryKeepsTheWidth := by
  unfold Obligations.TrajectoryKeepsTheWidth
  intro s t k ht
  have hs : s ≠ [] := List.ne_nil_of_length_pos (Nat.zero_lt_of_lt ht)
  exact ⟨rfl, rfl, trajectory_length t k hs, trajectory_succ_getElem?_last t k hs⟩

/-! The keystream, and the trajectory under tap 0. -/

theorem keystream_succ (s : Bits) (t n : Nat) :
    keystream s t (n + 1) = keystream s t n ++ [feedback (trajectory s t n) t] := by
  rw [keystream, List.range_succ, List.map_append, List.map_singleton, keystream]

/-- A trajectory reads the seed followed by its keystream, one place further on a step (R137). -/
theorem trajectory_eq_drop {s : Bits} (t n : Nat) (h : s ≠ []) : trajectory s t n = (s ++ keystream s t n).drop n := by
  induction n with
  | zero => exact (List.append_nil s).symm
  | succ n ih =>
    have hlen : n + 1 ≤ (s ++ keystream s t n).length := by
      rw [List.length_append, keystream_length]
      have := List.length_pos_iff.2 h
      omega
    calc trajectory s t (n + 1)
        = ((s ++ keystream s t n).drop n).drop 1 ++ [feedback (trajectory s t n) t] := by rw [trajectory, stepSeed, ← ih]
      _ = (s ++ keystream s t n ++ [feedback (trajectory s t n) t]).drop (n + 1) := by
        rw [List.drop_drop, List.drop_append_of_le_length hlen]
      _ = (s ++ keystream s t (n + 1)).drop (n + 1) := by rw [keystream_succ, List.append_assoc]

theorem feedback_trajectory_tap_zero {s : Bits} (k : Nat) (h : s ≠ []) : feedback (trajectory s 0 k) 0 = false :=
  feedback_tap_zero (trajectory_ne_nil 0 k h)

/-- With tap 0 the keystream is zeros. -/
theorem keystream_tap_zero {s : Bits} (n : Nat) (h : s ≠ []) : keystream s 0 n = List.replicate n false := by
  rw [List.eq_replicate_iff]
  refine ⟨keystream_length s 0 n, fun b hb => ?_⟩
  obtain ⟨k, -, rfl⟩ := List.mem_map.1 hb
  exact feedback_trajectory_tap_zero k h

theorem trajectory_tap_zero_of_le {s : Bits} {k : Nat} (h : s ≠ []) (hk : k ≤ s.length) :
    trajectory s 0 k = s.drop k ++ List.replicate k false := by
  rw [trajectory_eq_drop 0 k h, keystream_tap_zero k h, List.drop_append_of_le_length hk]

theorem trajectory_tap_zero_of_ge {s : Bits} {k : Nat} (h : s ≠ []) (hk : s.length ≤ k) :
    trajectory s 0 k = List.replicate s.length false := by
  rw [trajectory_eq_drop 0 k h, keystream_tap_zero k h, List.drop_append, List.drop_of_length_le hk, List.drop_replicate,
    Nat.sub_sub_self hk, List.nil_append]

end Sys2Proof.Machine
end

section
/-! PROOFS. STEP and SCHK behind the check of rule R102 (rules R110, R111), and the two commands with tap 0 (rule R104); obligations O13, O14
and O42. -/

namespace Sys2Proof.Machine

/-! The three ends of the check, for every command that is the check and then its own result (R102, R202, R205). -/

section
variable {i : Instr} {s : State} {r : Result} (hi : resultOf Config.params i s.block = checkSeedTap s.block r)
include hi

theorem exec_of_seed_empty (h : s.block.seed = []) : exec i s = .next (Stated.answered s s.block 0x04000000#32) :=
  exec_of_result (hi.trans (checkSeedTap_of_empty h))

theorem exec_of_tap_beyond (h : s.block.seed ≠ []) (ht : s.block.seed.length ≤ s.block.tap.toNat) :
    exec i s = .next (Stated.answered s s.block (Stated.errWord 0x01 s.block.tap.toNat)) := by
  rw [← responseWord_eq_errWord]
  exact exec_of_result (hi.trans (checkSeedTap_of_le h ht))

theorem exec_of_seed_tap_legal (ht : s.block.tap.toNat < s.block.seed.length) :
    exec i s = .next (Stated.answered s (r.block s.block) r.word) :=
  exec_of_result (hi.trans (checkSeedTap_of_lt ht))

end

theorem exec_step_of_legal {s : State} (ht : s.block.tap.toNat < s.block.seed.length) :
    exec .step s = .next (Stated.answered s
      { s.block with seed := s.block.seed.tail ++ [feedback s.block.seed s.block.tap.toNat] }
      (Stated.okWord (feedback s.block.seed s.block.tap.toNat).toNat)) := by
  rw [← stepSeed_eq_tail]
  exact exec_of_seed_tap_legal (i := .step) rfl ht

/-- Settles O13: the step behind the check, and the check's two errors. -/
theorem stepShiftsInTheFeedback : Obligations.StepShiftsInTheFeedback := by
  unfold Obligations.StepShiftsInTheFeedback
  refine ⟨decode_encode .step, fun s => ⟨?legal, exec_of_seed_empty (i := .step) rfl, exec_of_tap_beyond (i := .step) rfl⟩⟩
  case legal =>
    intro first tapped rest hseed htapped
    have hfirst : s.block.seed[0]? = some first := by rw [hseed, List.getElem?_cons_zero]
    rw [exec_step_of_legal (List.getElem?_eq_some_iff.1 htapped).1, feedback_of_getElem? hfirst htapped, hseed, List.tail_cons]

theorem exec_schk_of_legal {s : State} (ht : s.block.tap.toNat < s.block.seed.length) :
    exec .schk s = .next (Stated.answered s s.block 0x00000000#32) :=
  exec_of_seed_tap_legal (i := .schk) rfl ht

/-- Settles O14: SCHK is the check alone. -/
theorem schkChecksWithoutStepping : Obligations.SchkChecksWithoutStepping := by
  unfold Obligations.SchkChecksWithoutStepping
  exact ⟨decode_encode .schk,
    fun s => ⟨exec_schk_of_legal, exec_of_seed_empty (i := .schk) rfl, exec_of_tap_beyond (i := .schk) rfl⟩⟩

/-- Settles O42: the zeros of the keystream move in from the right, and tap 0 is below every width but 0. -/
theorem tapZeroShiftsInZeros : Obligations.TapZeroShiftsInZeros := by
  unfold Obligations.TapZeroShiftsInZeros
  refine ⟨fun s k hs => ⟨feedback_trajectory_tap_zero k hs, trajectory_tap_zero_of_le hs, trajectory_tap_zero_of_ge hs⟩, ?commands⟩
  case commands =>
    intro s hs htap
    have htap0 : s.block.tap.toNat = 0 := by rw [htap]; rfl
    have hlegal : s.block.tap.toNat < s.block.seed.length := by rw [htap0]; exact List.length_pos_iff.2 hs
    refine ⟨exec_schk_of_legal hlegal, ?_⟩
    rw [exec_step_of_legal hlegal, htap0, feedback_tap_zero hs]
    rfl

end Sys2Proof.Machine
end

section
/-! PROOFS. The numeric form of a step (rules R15, R115); obligation O45. -/

namespace Sys2Proof.Machine

theorem val_append_bit (s : Bits) (b : Bit) : val (s ++ [b]) = 2 * val s + b.toNat := by
  induction s with
  | nil => simp [val]
  | cons c rest ih =>
    rw [List.cons_append, val, ih, val, List.length_append, List.length_singleton, pow_succ]
    ring

/-- Doubling modulo 2^L drops the leftmost bit. -/
theorem two_mul_val_mod (s : Bits) : 2 * val s % 2 ^ s.length = 2 * val s.tail := by
  cases s with
  | nil => rfl
  | cons b rest =>
    have hrest := val_lt_two_pow rest
    have hsplit : 2 * val (b :: rest) = 2 * val rest + b.toNat * 2 ^ (rest.length + 1) := by
      rw [val, pow_succ]
      ring
    rw [hsplit, List.length_cons, Nat.add_mul_mod_self_right, List.tail_cons, Nat.mod_eq_of_lt]
    rw [pow_succ]
    omega

theorem val_stepSeed (s : Bits) (t : Nat) : val (stepSeed s t) = 2 * val s % 2 ^ s.length + (feedback s t).toNat := by
  rw [stepSeed_eq_tail, val_append_bit, two_mul_val_mod]

/-- Index i is bit L−1−i of the value (R15, R52). -/
theorem testBit_val {s : Bits} {i : Nat} {v : Bit} (h : s[i]? = some v) : (val s).testBit (s.length - 1 - i) = v := by
  induction s generalizing i with
  | nil => simp at h
  | cons b rest ih =>
    have hbit (j : Nat) : (val (b :: rest)).testBit j =
        if j < rest.length then (val rest).testBit j else b.toNat.testBit (j - rest.length) := by
      rw [val, mul_comm, Nat.testBit_two_pow_mul_add b.toNat (val_lt_two_pow rest)]
    rw [hbit, List.length_cons, Nat.add_sub_cancel]
    cases i with
    | zero =>
      obtain rfl : b = v := Option.some.inj h
      cases b <;> simp
    | succ i =>
      rw [List.getElem?_cons_succ] at h
      have hi : i < rest.length := (List.getElem?_eq_some_iff.1 h).1
      rw [if_pos (by omega), ← ih h, Nat.sub_sub, Nat.add_comm 1 i]

/-- Settles O45: the shift of the value, and the two bits that the feedback reads. -/
theorem stepIsALeftShiftOfTheValue : Obligations.StepIsALeftShiftOfTheValue := by
  unfold Obligations.StepIsALeftShiftOfTheValue
  exact fun s t _ _ hfirst htapped => ⟨val_stepSeed s t, testBit_val hfirst, testBit_val htapped⟩

end Sys2Proof.Machine
end

section
/-! PROOFS. The keystream store's commands behind the check of rule R203 (rules R132 to R135), and the empty keystream (R132, R151);
obligations O18, O19, O20 and O21. -/

namespace Sys2Proof.Machine

/-! The two ends of the check, for every command that is the check and then its own result (R203). -/

section
variable {i : Instr} {s : State} {r : Result} (hi : resultOf Config.params i s.block = checkStore s.block r)
include hi

theorem exec_of_store_missing (h : s.block.ksValid = false) :
    exec i s = .next (Stated.answered s s.block 0x02000000#32) :=
  exec_of_result (hi.trans (checkStore_of_missing h))

theorem exec_of_store_valid (h : s.block.ksValid = true) :
    exec i s = .next (Stated.answered s (r.block s.block) r.word) :=
  exec_of_result (hi.trans (checkStore_of_valid h))

end

theorem padLeft_of_le {s : Bits} {m : Nat} (h : m ≤ s.length) : padLeft s m = s := by
  rw [padLeft, Nat.sub_eq_zero_of_le h, List.replicate_zero, List.nil_append]

theorem zipWith_xor_replicate_false (x : Bits) : List.zipWith Bool.xor (List.replicate x.length false) x = x := by
  induction x with
  | nil => rfl
  | cons b x ih => rw [List.length_cons, List.replicate_succ, List.zipWith_cons_cons, ih, Bool.false_xor]

/-- An empty keystream is padded to zeros, which leave X as it is. -/
theorem combine_nil_left (x : Bits) : combine [] x = x := by
  have hzeros : padLeft [] x.length = List.replicate x.length false := by simp [padLeft]
  rw [combine, List.length_nil, Nat.zero_max, hzeros, padLeft_of_le le_rfl, zipWith_xor_replicate_false]

theorem exec_kclr (s : State) :
    exec .kclr s = .next (Stated.answered s { s.block with ks := [], ksValid := true } 0x00000000#32) :=
  exec_of_result (i := .kclr) rfl

/-- XORC from an empty store copies X to Y. -/
theorem exec_xorc_of_store_empty {s : State} (hv : s.block.ksValid = true) (hks : s.block.ks = []) :
    ∃ u, exec .xorc s = .next u ∧ u.block = { s.block with y := s.block.x } := by
  refine ⟨_, exec_of_store_valid (i := .xorc) rfl hv, ?_⟩
  change { s.block with y := combine s.block.ks s.block.x } = _
  rw [hks, combine_nil_left]

/-- Settles O18: KCLR has no check, and the store it leaves is empty. -/
theorem kclrCreatesAnEmptyStore : Obligations.KclrCreatesAnEmptyStore := by
  unfold Obligations.KclrCreatesAnEmptyStore
  refine ⟨decode_encode .kclr, fun s => ⟨exec_kclr s, fun t ht => ?xorc⟩⟩
  case xorc =>
    obtain rfl := Host.Outcome.next.inj ((exec_kclr s).symm.trans ht)
    exact exec_xorc_of_store_empty rfl rfl

theorem exec_kpush_of_full {s : State} (bit : Bit) (hv : s.block.ksValid = true)
    (h : s.block.ks.length = Config.params.kmax) :
    exec (.kpush bit) s = .next (Stated.answered s s.block (Stated.errWord 0x05 Config.params.kmax)) :=
  exec_of_result (i := .kpush bit) ((checkStore_of_valid hv).trans (pushBit_of_full h))

theorem exec_kpush_of_room {s : State} (bit : Bit) (hv : s.block.ksValid = true)
    (h : s.block.ks.length ≠ Config.params.kmax) :
    exec (.kpush bit) s = .next (Stated.answered s { s.block with ks := s.block.ks ++ [bit] } 0x00000000#32) :=
  exec_of_result (resultOf_kpush_of_room bit hv h)

/-- Settles O19: the check of the store, then the append by whether the store is at its capacity. -/
theorem kpushAppendsOneStoreBit : Obligations.KpushAppendsOneStoreBit := by
  unfold Obligations.KpushAppendsOneStoreBit
  exact ⟨decode_encode (.kpush false), decode_encode (.kpush true),
    fun _ bit => ⟨exec_of_store_missing (i := .kpush bit) rfl, exec_kpush_of_full bit, exec_kpush_of_room bit⟩⟩

theorem exec_krd_of_le {s : State} {i : Imm} (hv : s.block.ksValid = true) (h : s.block.ks.length ≤ i.toNat) :
    exec (.krd i) s = .next (Stated.answered s s.block (Stated.errWord 0x07 s.block.ks.length)) :=
  exec_of_result (i := .krd i) ((checkStore_of_valid hv).trans (readBit_of_le h))

theorem exec_krd_of_getElem? {s : State} {i : Imm} {v : Bit} (hv : s.block.ksValid = true)
    (h : s.block.ks[i.toNat]? = some v) :
    exec (.krd i) s = .next (Stated.answered s s.block (Stated.okWord v.toNat)) :=
  exec_of_result (i := .krd i) ((checkStore_of_valid hv).trans (readBit_of_getElem? h))

/-- Settles O20: the check of the store, then the read by whether its index is below the length. -/
theorem krdReadsOneStoreBit : Obligations.KrdReadsOneStoreBit := by
  unfold Obligations.KrdReadsOneStoreBit
  exact fun i => ⟨decode_encode (.krd i),
    fun _ => ⟨exec_of_store_missing (i := .krd i) rfl, exec_krd_of_le, fun _ => exec_krd_of_getElem?⟩⟩

/-- Settles O21: the check of the store, then the length. -/
theorem klenReadsTheStoreLength : Obligations.KlenReadsTheStoreLength := by
  unfold Obligations.KlenReadsTheStoreLength
  exact ⟨decode_encode .klen,
    fun _ => ⟨exec_of_store_valid (i := .klen) rfl, exec_of_store_missing (i := .klen) rfl⟩⟩

end Sys2Proof.Machine
end

section
/-! PROOFS. The trajectory and the keystream compose, and the loop of GEN computes them (rules R131, R136 to R138); obligations O46, O17
and O47. -/

namespace Sys2Proof.Machine

/-- Settles O46: the window reaches to the right end, since the seed and its keystream are L + N bits. -/
theorem seedAfterNStepsIsAWindow : Obligations.SeedAfterNStepsIsAWindow := by
  unfold Obligations.SeedAfterNStepsIsAWindow
  intro s t n ht
  have hs : s ≠ [] := List.ne_nil_of_length_pos (Nat.zero_lt_of_lt ht)
  rw [← trajectory_eq_drop t n hs, List.take_of_length_le (trajectory_length t n hs).le]

theorem trajectory_add (s : Bits) (t n m : Nat) : trajectory s t (n + m) = trajectory (trajectory s t n) t m := by
  induction m with
  | zero => rfl
  | succ m ih => rw [← Nat.add_assoc, trajectory, trajectory, ih]

theorem keystream_add (s : Bits) (t n m : Nat) :
    keystream s t (n + m) = keystream s t n ++ keystream (trajectory s t n) t m := by
  induction m with
  | zero => exact (List.append_nil _).symm
  | succ m ih => rw [← Nat.add_assoc, keystream_succ, keystream_succ, ih, trajectory_add, List.append_assoc]

/-- The first step of a trajectory, taken off at the front. -/
theorem trajectory_succ_eq_stepSeed (s : Bits) (t n : Nat) : trajectory s t (n + 1) = trajectory (stepSeed s t) t n := by
  rw [Nat.add_comm, trajectory_add]
  rfl

/-- The first bit of a keystream, taken off at the front. -/
theorem keystream_succ_eq_cons (s : Bits) (t n : Nat) :
    keystream s t (n + 1) = feedback s t :: keystream (stepSeed s t) t n := by
  rw [Nat.add_comm, keystream_add]
  rfl

/-- The loop of rule R131 ends with T = S_N, and k extended by the keystream. -/
theorem generateLoop_eq (t n : Nat) (s k : Bits) : generateLoop t n s k = (trajectory s t n, k ++ keystream s t n) := by
  induction n generalizing s k with
  | zero => exact congrArg (Prod.mk s) (List.append_nil k).symm
  | succ n ih =>
    rw [generateLoop, ih, trajectory_succ_eq_stepSeed, keystream_succ_eq_cons, List.append_assoc, List.singleton_append]

/-- The block after a GEN of `n` steps. -/
def Block.generated (b : Block) (n : Nat) : Block :=
  { b with
    seed := trajectory b.seed b.tap.toNat n
    ks := keystream b.seed b.tap.toNat n
    ksValid := true }

theorem resultGen_of_fits {p : Params} {n : Imm} {b : Block} (ht : b.tap.toNat < b.seed.length) (hn : n.toNat ≤ p.kmax) :
    resultGen p n b = .respond (b.generated n.toNat) 0 := by
  rw [resultGen, checkSeedTap_of_lt ht, if_neg (Nat.not_lt.2 hn), generateLoop_eq]
  rfl

theorem resultGen_of_over {p : Params} {n : Imm} {b : Block} (ht : b.tap.toNat < b.seed.length) (hn : p.kmax < n.toNat) :
    resultGen p n b = .raise .capacityExceeded (zext24 p.kmax) := by
  rw [resultGen, checkSeedTap_of_lt ht, if_pos hn]

section
variable {s : State} {n : Imm} (ht : s.block.tap.toNat < s.block.seed.length)
include ht

theorem exec_gen_of_fits (hn : n.toNat ≤ Config.params.kmax) :
    exec (.gen n) s = .next (Stated.answered s (s.block.generated n.toNat) 0x00000000#32) :=
  exec_of_result (i := .gen n) (resultGen_of_fits ht hn)

theorem exec_gen_of_over (hn : Config.params.kmax < n.toNat) :
    exec (.gen n) s = .next (Stated.answered s s.block (Stated.errWord 0x05 Config.params.kmax)) :=
  exec_of_result (i := .gen n) (resultGen_of_over ht hn)

end

/-- Settles O17: the check of the seed and the tap, then the loop by whether the step count fits the store. -/
theorem genWritesTheKeystream : Obligations.GenWritesTheKeystream := by
  unfold Obligations.GenWritesTheKeystream
  refine fun n => ⟨decode_encode (.gen n), fun s => ⟨?fits, exec_of_seed_empty (i := .gen n) rfl,
    exec_of_tap_beyond (i := .gen n) rfl, ?capacity⟩⟩
  case fits => exact fun ht hn => ⟨exec_gen_of_fits ht hn, keystream_length _ _ _⟩
  case capacity =>
    intro ht
    split
    case isTrue hn => exact exec_gen_of_over ht hn
    case isFalse hn => exact exec_gen_of_fits ht (Nat.le_of_not_lt hn)

theorem trajectory_legal {s : Bits} {t : Nat} (k : Nat) (ht : t < s.length) : t < (trajectory s t k).length := by
  rwa [trajectory_length t k (List.ne_nil_of_length_pos (Nat.zero_lt_of_lt ht))]

/-- Settles O47: the second GEN starts from the seed and tap the first one left, which are legal again. -/
theorem keystreamGenerationComposes : Obligations.KeystreamGenerationComposes := by
  unfold Obligations.KeystreamGenerationComposes
  refine ⟨fun s t n m _ => (keystream_add s t n m).symm, fun s u v n m ht hn hm hu hv => ?commands⟩
  case commands =>
    obtain rfl := Host.Outcome.next.inj ((exec_gen_of_fits ht hn).symm.trans hu)
    obtain rfl := Host.Outcome.next.inj ((exec_gen_of_fits (trajectory_legal n.toNat ht) hm).symm.trans hv)
    rw [keystream_add, List.drop_left' (keystream_length _ _ _)]
    rfl

end Sys2Proof.Machine
end

section
/-! PROOFS. GEN against successive STEP commands (rule R139); obligation O48. -/

namespace Sys2Proof.Machine

theorem transact_step_of_legal (p : Params) {b : Block} (ht : b.tap.toNat < b.seed.length) :
    transact p (encode .step) b =
      ({ b with seed := stepSeed b.seed b.tap.toNat }, Stated.okWord (feedback b.seed b.tap.toNat).toNat) := by
  rw [transact_encode, resultOf, resultStep, checkSeedTap_of_lt ht]
  rfl

/-- N STEP commands walk the trajectory, and their responses carry the keystream. -/
theorem transactAll_steps (p : Params) (n : Nat) {b : Block} (ht : b.tap.toNat < b.seed.length) :
    transactAll p (List.replicate n (encode .step)) b =
      ({ b with seed := trajectory b.seed b.tap.toNat n },
        (keystream b.seed b.tap.toNat n).map fun bit => Stated.okWord bit.toNat) := by
  induction n generalizing b with
  | zero => rfl
  | succ n ih =>
    have hlegal : b.tap.toNat < (stepSeed b.seed b.tap.toNat).length := trajectory_legal 1 ht
    have hrest := ih (b := { b with seed := stepSeed b.seed b.tap.toNat }) hlegal
    rw [List.replicate_succ, transactAll, transact_step_of_legal p ht, hrest, trajectory_succ_eq_stepSeed,
      keystream_succ_eq_cons, List.map_cons]

theorem transact_gen_of_fits {p : Params} {n : Imm} {b : Block} (ht : b.tap.toNat < b.seed.length) (hn : n.toNat ≤ p.kmax) :
    transact p (encode (.gen n)) b = (b.generated n.toNat, 0x00000000#32) := by
  rw [transact_encode, resultOf, resultGen_of_fits ht hn]
  rfl

/-- Settles O48: both leave S_N, and the bits of both are the keystream. -/
theorem genIsNStepCommands : Obligations.GenIsNStepCommands := by
  unfold Obligations.GenIsNStepCommands
  exact fun p n _ ht hn => ⟨_, _, transactAll_steps p n.toNat ht, transact_gen_of_fits ht hn⟩

end Sys2Proof.Machine
end

section
/-! PROOFS. The combiner's operands after padding, read from the left and from the right, and its algebra (rules R150 to R152, R158, R160);
obligations O49, O50 and O51. -/

namespace Sys2Proof.Machine

theorem getElem?_padLeft (s : Bits) (m i : Nat) :
    (padLeft s m)[i]? = if i < m - s.length then some false else s[i - (m - s.length)]? := by
  rw [padLeft, List.getElem?_append, List.length_replicate]
  split
  case isTrue hzero => rw [List.getElem?_replicate_of_lt hzero]
  case isFalse => rfl

theorem getElem?_combine {k x : Bits} {i : Nat} {a b : Bit} (ha : (padLeft k (max k.length x.length))[i]? = some a)
    (hb : (padLeft x (max k.length x.length))[i]? = some b) : (combine k x)[i]? = some (a ^^ b) := by
  rw [combine, List.getElem?_zipWith, ha, hb]

/-- Settles O49: both padded operands have a bit at every index below M. -/
theorem combineIsPositionwiseXor : Obligations.CombineIsPositionwiseXor := by
  unfold Obligations.CombineIsPositionwiseXor
  refine fun k x => ⟨combine_length k x, fun i hi => ?bit⟩
  case bit =>
    have hbit {s : Bits} (hs : s.length ≤ max k.length x.length) : ∃ v, (padLeft s (max k.length x.length))[i]? = some v :=
      ⟨_, List.getElem?_eq_getElem (hi.trans_eq (padLeft_length hs).symm)⟩
    obtain ⟨a, ha⟩ := hbit (le_max_left k.length x.length)
    obtain ⟨b, hb⟩ := hbit (le_max_right k.length x.length)
    exact ⟨a, b, (getElem?_padLeft k _ i).symm.trans ha, (getElem?_padLeft x _ i).symm.trans hb, getElem?_combine ha hb⟩

theorem zipWith_xor_cancel {k x : Bits} (h : k.length = x.length) :
    List.zipWith Bool.xor k (List.zipWith Bool.xor k x) = x := by
  induction k generalizing x with
  | nil => exact (List.eq_nil_of_length_eq_zero h.symm).symm
  | cons a k ih =>
    cases x with
    | nil => exact absurd h (Nat.succ_ne_zero _)
    | cons b x =>
      rw [List.zipWith_cons_cons, List.zipWith_cons_cons, ih (Nat.succ.inj h), ← Bool.xor_assoc, Bool.xor_self, Bool.false_xor]

/-- The first result is M bits long, so the second pass pads the keystream as the first did, and cancels it. -/
theorem combine_combine (k x : Bits) : combine k (combine k x) = padLeft x (max k.length x.length) := by
  have hlen : max k.length (combine k x).length = max k.length x.length := by
    rw [combine_length, max_eq_right (le_max_left _ _)]
  rw [combine, hlen, padLeft_of_le (combine_length k x).ge, combine, zipWith_xor_cancel]
  rw [padLeft_length (le_max_left _ _), padLeft_length (le_max_right _ _)]

/-- Settles O50: the padding of X is empty when X is not the shorter. -/
theorem combineIsSelfInverse : Obligations.CombineIsSelfInverse := by
  unfold Obligations.CombineIsSelfInverse
  exact fun k x => ⟨combine_combine k x, fun h => (combine_combine k x).trans (padLeft_of_le (max_eq_right h).le)⟩

/-- The j-th bit of a padded operand from the right is the operand's own j-th bit from the right, and 0 beyond it. -/
theorem getElem?_padLeft_right {s : Bits} {m j : Nat} (hj : j < m) (hs : s.length ≤ m) :
    (padLeft s m)[m - 1 - j]? = some (s.reverse.getD j false) := by
  rw [getElem?_padLeft]
  by_cases h : j < s.length
  · have hindex : m - 1 - j - (m - s.length) = s.length - 1 - j := by omega
    have hrev : j < s.reverse.length := by rwa [List.length_reverse]
    rw [if_neg (by omega), hindex, ← List.getElem?_reverse h, List.getElem?_eq_getElem hrev, List.getD_eq_getElem _ _ hrev]
  · have hrev : s.reverse.length ≤ j := by rw [List.length_reverse]; exact Nat.le_of_not_lt h
    rw [if_pos (by omega), List.getD_eq_default _ _ hrev]

theorem combine_comm (k x : Bits) : combine k x = combine x k := by
  rw [combine, combine, max_comm, List.zipWith_comm_of_comm Bool.xor_comm]

/-- Settles O51: both operands are read from the right end of their padding. -/
theorem combineAlignsAtTheRight : Obligations.CombineAlignsAtTheRight := by
  unfold Obligations.CombineAlignsAtTheRight
  refine fun k x => ⟨fun j hj => ?aligned, combine_comm k x, (combine_comm k []).trans (combine_nil_left k), combine_nil_left x⟩
  case aligned =>
    exact getElem?_combine (getElem?_padLeft_right hj (le_max_left _ _)) (getElem?_padLeft_right hj (le_max_right _ _))

end Sys2Proof.Machine
end

section
/-! PROOFS. XPUSH and XORC (rules R154, R155); obligations O22 and O23. -/

namespace Sys2Proof.Machine

theorem exec_xpush_of_full {s : State} (bit : Bit) (h : s.block.x.length = Config.params.xmax) :
    exec (.xpush bit) s = .next (Stated.answered s s.block (Stated.errWord 0x05 Config.params.xmax)) :=
  exec_of_result (i := .xpush bit) (pushBit_of_full h)

theorem exec_xpush_of_room {s : State} (bit : Bit) (h : s.block.x.length ≠ Config.params.xmax) :
    exec (.xpush bit) s = .next (Stated.answered s { s.block with x := s.block.x ++ [bit] } 0x00000000#32) :=
  exec_of_result (resultOf_xpush_of_room bit h)

/-- Settles O22: the append by whether the input is at its capacity. -/
theorem xpushAppendsOneInputBit : Obligations.XpushAppendsOneInputBit := by
  unfold Obligations.XpushAppendsOneInputBit
  exact ⟨decode_encode (.xpush false), decode_encode (.xpush true),
    fun _ bit => ⟨exec_xpush_of_full bit, exec_xpush_of_room bit⟩⟩

/-- XORC answers the length of Y, which is the longer operand's (R151, R155). -/
theorem resultOf_xorc (p : Params) (b : Block) :
    resultOf p .xorc b =
      checkStore b (.respond { b with y := combine b.ks b.x } (zext24 (max b.ks.length b.x.length))) := by
  rw [resultOf, resultXorc, combine_length]

/-- Settles O23: the check of the store, then the combination; Y fits since the store and the input do. -/
theorem xorcCombinesStoreAndInput : Obligations.XorcCombinesStoreAndInput := by
  unfold Obligations.XorcCombinesStoreAndInput
  refine ⟨decode_encode .xorc, rfl, rfl, fun s => ⟨exec_of_store_valid (resultOf_xorc _ _),
    exec_of_store_missing (resultOf_xorc _ _), ?fits⟩⟩
  case fits =>
    rintro ⟨-, hks, hx, -, -⟩
    exact combine_length_le hks hx

end Sys2Proof.Machine
end

section
/-! PROOFS. MASKPX (rules R171 to R173); obligation O24. -/

namespace Sys2Proof.Machine

/-- The packed pixel of a response, as the number R173 writes. -/
theorem responseWord_maskPixel (r g b m : Byte) : responseWord 0x00 (maskPixel r g b m) =
    Stated.okWord ((r ^^^ m).toNat * 2 ^ 16 + (g ^^^ m).toNat * 2 ^ 8 + (b ^^^ m).toNat) := by
  rw [responseWord_eq_errWord, maskPixel, pixelField_toNat]
  rfl

theorem exec_maskpx_of_legal {s : State} (r g b : Byte) (ht : s.block.tap.toNat < s.block.seed.length) :
    exec (.maskpx r g b) s = .next (Stated.answered s
      { s.block with seed := s.block.seed.tail ++ [feedback s.block.seed s.block.tap.toNat] }
      (responseWord 0x00 (maskPixel r g b (Config.params.maskFn (val s.block.seed))))) := by
  rw [← stepSeed_eq_tail]
  exact exec_of_seed_tap_legal (i := .maskpx r g b) rfl ht

/-- Settles O24: the mask and the step behind the check, and the check's two errors. -/
theorem maskpxMasksThenSteps : Obligations.MaskpxMasksThenSteps := by
  unfold Obligations.MaskpxMasksThenSteps
  refine fun r g b => ⟨decode_encode (.maskpx r g b), rfl, rfl, fun s => ⟨?legal,
    exec_of_seed_empty (i := .maskpx r g b) rfl, exec_of_tap_beyond (i := .maskpx r g b) rfl⟩⟩
  case legal =>
    rintro first tapped rest _ hseed htapped rfl
    have hfirst : s.block.seed[0]? = some first := by rw [hseed, List.getElem?_cons_zero]
    rw [exec_maskpx_of_legal r g b (List.getElem?_eq_some_iff.1 htapped).1, responseWord_maskPixel,
      feedback_of_getElem? hfirst htapped, hseed, List.tail_cons]

end Sys2Proof.Machine
end

section
/-! PROOFS. The mask of a grid of pixels as a function of the seed and the tap alone (rules R172, R175), without the block: it keeps the
shape, and it is its own inverse. -/

namespace Sys2Proof.Machine

/-- `mask_pixel` of rule R172. -/
def Pixel.masked (px : Pixel) (m : Byte) : Pixel := ⟨px.r ^^^ m, px.g ^^^ m, px.b ^^^ m⟩

@[simp] theorem Pixel.masked_masked (px : Pixel) (m : Byte) : (px.masked m).masked m = px := by
  simp [Pixel.masked]

/-- A DATA field carries its three channels (R53). -/
theorem pixelOfData_pixelField (r g b : Byte) : pixelOfData (pixelField r g b) = ⟨r, g, b⟩ := by
  have hr := r.isLt
  have hg := g.isLt
  have hb := b.isLt
  simp only [pixelOfData, Pixel.mk.injEq, ← BitVec.toNat_inj, BitVec.extractLsb'_toNat, Nat.shiftRight_eq_div_pow,
    pixelField_toNat]
  omega

theorem pixelOfData_maskPixel (px : Pixel) (m : Byte) : pixelOfData (maskPixel px.r px.g px.b m) = px.masked m :=
  pixelOfData_pixelField _ _ _

/-- The mask byte m_k of rule R175. -/
def maskByte (p : Params) (t : Nat) (s : Bits) (k : Nat) : Byte := p.maskFn (val (trajectory s t k))

theorem maskByte_succ (p : Params) (t : Nat) (s : Bits) (k : Nat) :
    maskByte p t s (k + 1) = maskByte p t (stepSeed s t) k := by
  rw [maskByte, trajectory_succ_eq_stepSeed, maskByte]

/-- A row whose pixel c is masked with m_c. -/
def maskedRow (p : Params) (t : Nat) (s : Bits) (row : List Pixel) : List Pixel :=
  row.mapIdx fun c px => px.masked (maskByte p t s c)

/-- Rows masked one after another, each from the seed the row before left. -/
def maskedRows (p : Params) (t : Nat) : Bits → List (List Pixel) → List (List Pixel)
  | _, [] => []
  | s, row :: rest => maskedRow p t s row :: maskedRows p t (trajectory s t row.length) rest

variable (p : Params) (t : Nat) (s : Bits)

theorem maskedRow_cons (px : Pixel) (row : List Pixel) :
    maskedRow p t s (px :: row) = px.masked (p.maskFn (val s)) :: maskedRow p t (stepSeed s t) row := by
  simp only [maskedRow, List.mapIdx_cons, maskByte_succ]
  rfl

@[simp] theorem maskedRow_length (row : List Pixel) : (maskedRow p t s row).length = row.length := List.length_mapIdx

theorem maskedRow_getElem? (row : List Pixel) (c : Nat) :
    (maskedRow p t s row)[c]? = row[c]?.map fun px => px.masked (maskByte p t s c) := List.getElem?_mapIdx

theorem maskedRow_maskedRow (row : List Pixel) : maskedRow p t s (maskedRow p t s row) = row := by
  apply List.ext_getElem?
  intro c
  rw [maskedRow_getElem?, maskedRow_getElem?, Option.map_map]
  simp [Function.comp_def]

theorem maskedRows_map_length (image : List (List Pixel)) :
    (maskedRows p t s image).map List.length = image.map List.length := by
  induction image generalizing s with
  | nil => rfl
  | cons row rest ih => rw [maskedRows, List.map_cons, List.map_cons, maskedRow_length, ih]

theorem maskedRows_maskedRows (image : List (List Pixel)) : maskedRows p t s (maskedRows p t s image) = image := by
  induction image generalizing s with
  | nil => rfl
  | cons row rest ih => rw [maskedRows, maskedRows, maskedRow_maskedRow, maskedRow_length, ih]

variable {s}

/-- With rows of one width the row r starts at S_(r·W). -/
theorem maskedRows_getElem? {width : Nat} {image : List (List Pixel)} (hw : ∀ row ∈ image, row.length = width) (r : Nat) :
    (maskedRows p t s image)[r]? = image[r]?.map (maskedRow p t (trajectory s t (r * width))) := by
  induction image generalizing s r with
  | nil => rfl
  | cons row rest ih =>
    obtain ⟨hrow, hrest⟩ := List.forall_mem_cons.1 hw
    cases r with
    | zero => rw [Nat.zero_mul]; rfl
    | succ r =>
      rw [maskedRows, List.getElem?_cons_succ, List.getElem?_cons_succ, hrow, ih hrest, ← trajectory_add,
        Nat.succ_mul, Nat.add_comm width]

/-- The pixel at row r and column c is masked with the byte of index r·W + c (R175). -/
theorem maskedRows_pixel {width : Nat} {image : List (List Pixel)} (hw : ∀ row ∈ image, row.length = width) {r c : Nat}
    {px : Pixel} (hpx : (image[r]?.bind fun row => row[c]?) = some px) :
    ((maskedRows p t s image)[r]?.bind fun row => row[c]?) = some (px.masked (maskByte p t s (r * width + c))) := by
  obtain ⟨row, hrow, hcol⟩ := Option.bind_eq_some_iff.1 hpx
  rw [maskedRows_getElem? p t hw, hrow, Option.map_some, Option.bind_some, maskedRow_getElem?, hcol, Option.map_some,
    maskByte, maskByte, trajectory_add]

end Sys2Proof.Machine
end

section
/-! PROOFS. MASK_IMAGE (rule R174): the load and the check by how the check ends, then the MASKPX commands, none of which fails;
obligations O52, O53 and O54. -/

namespace Sys2Proof.Machine

variable {p : Params} {b : Block}

/-! The MASKPX commands after the check. -/

theorem transact_maskpx_of_legal (px : Pixel) (ht : b.tap.toNat < b.seed.length) :
    transact p (encode (.maskpx px.r px.g px.b)) b =
      ({ b with seed := stepSeed b.seed b.tap.toNat },
        responseWord 0x00 (maskPixel px.r px.g px.b (p.maskFn (val b.seed)))) := by
  rw [transact_encode, resultOf, resultMaskpx, checkSeedTap_of_lt ht]
  rfl

theorem maskRow_of_legal (row : List Pixel) (ht : b.tap.toNat < b.seed.length) :
    maskRow p row b =
      ({ b with seed := trajectory b.seed b.tap.toNat row.length }, maskedRow p b.tap.toNat b.seed row) := by
  induction row generalizing b with
  | nil => rfl
  | cons px row ih =>
    have hlegal : b.tap.toNat < (stepSeed b.seed b.tap.toNat).length := trajectory_legal 1 ht
    have hrest := ih (b := { b with seed := stepSeed b.seed b.tap.toNat }) hlegal
    simp only [maskRow, issue, transact_maskpx_of_legal px ht, hrest, dataField_responseWord, pixelOfData_maskPixel,
      maskedRow_cons, List.length_cons, trajectory_succ_eq_stepSeed]

theorem maskRows_of_legal (image : List (List Pixel)) (ht : b.tap.toNat < b.seed.length) :
    maskRows p image b =
      ({ b with seed := trajectory b.seed b.tap.toNat (image.map List.length).sum },
        maskedRows p b.tap.toNat b.seed image) := by
  induction image generalizing b with
  | nil => rfl
  | cons row rest ih =>
    have hrest := ih (b := { b with seed := trajectory b.seed b.tap.toNat row.length }) (trajectory_legal row.length ht)
    simp only [maskRows, maskRow_of_legal row ht, hrest, maskedRows, List.map_cons, List.sum_cons, trajectory_add]

theorem codeField_maskpx_of_legal (pixels : List Pixel) (ht : b.tap.toNat < b.seed.length) :
    ∀ r ∈ (transactAll p (pixels.map fun px => encode (.maskpx px.r px.g px.b)) b).2, codeField r = 0x00 := by
  induction pixels generalizing b with
  | nil => exact fun r hr => absurd hr List.not_mem_nil
  | cons px pixels ih =>
    have hlegal : b.tap.toNat < (stepSeed b.seed b.tap.toNat).length := trajectory_legal 1 ht
    rw [List.map_cons, transactAll, transact_maskpx_of_legal px ht]
    exact List.forall_mem_cons.2 ⟨codeField_responseWord _ _, ih hlegal⟩

/-! The commands before the pixels. -/

theorem Error.code_ne_zero (e : Error) : e.code ≠ 0 := by cases e <;> decide

theorem issueUntilError_of_respond {i : Instr} {c : Block} {d : Imm} (rest : List Instr)
    (h : resultOf p i b = .respond c d) : issueUntilError p (i :: rest) b = issueUntilError p rest c := by
  simp only [issueUntilError, issue, transact_encode, h, Result.word_respond, codeField_responseWord, Result.block_respond,
    if_true]

theorem issueUntilError_of_raise {i : Instr} {e : Error} {d : Imm} (rest : List Instr) (h : resultOf p i b = .raise e d) :
    issueUntilError p (i :: rest) b = (b, some (responseWord e.code d)) := by
  simp only [issueUntilError, issue, transact_encode, h, Result.word_raise, codeField_responseWord, Result.block_raise,
    e.code_ne_zero, if_false]

/-- Commands that all answer success are issued to the last. -/
theorem issueUntilError_append {is : List Instr} (rest : List Instr)
    (h : ∀ r ∈ (transactAll p (is.map encode) b).2, codeField r = 0) :
    issueUntilError p (is ++ rest) b = issueUntilError p rest (transactAll p (is.map encode) b).1 := by
  induction is generalizing b with
  | nil => rfl
  | cons i is ih =>
    obtain ⟨hi, his⟩ := List.forall_mem_cons.1 h
    rw [List.cons_append, issueUntilError, issue, if_pos hi, ih his]
    rfl

/-- The block after the load of the seed and the tap. -/
def Block.loaded (b : Block) (s : Bits) (t : Imm) : Block := { b with seed := s, tap := t }

section
variable {s : Bits} {t : Imm} (hs : s.length ≤ p.lmax)
include hs

/-- A seed of at most LMAX bits loads, and only the check can fail. -/
theorem issueUntilError_load :
    issueUntilError p (expand (.ldseed s) ++ [Instr.stap t, Instr.schk]) b = issueUntilError p [.schk] (b.loaded s t) := by
  have hload : transactAll p ((expand (.ldseed s)).map encode) b =
      ({ b with seed := s }, List.replicate (s.length + 1) 0x00000000#32) :=
    (pseudoInstructionsExpandAndLoad.2 p b s).1 hs
  have hcodes : ∀ r ∈ (transactAll p ((expand (.ldseed s)).map encode) b).2, codeField r = 0 := by
    intro r hr
    rw [hload] at hr
    rw [List.eq_of_mem_replicate hr]
    rfl
  rw [issueUntilError_append _ hcodes, hload]
  exact issueUntilError_of_respond _ rfl

theorem maskImage_of_raise {e : Error} {d : Imm} (image : List (List Pixel))
    (h : resultOf p .schk (b.loaded s t) = .raise e d) :
    maskImage p image s t b = (b.loaded s t, .error (responseWord e.code d)) := by
  rw [maskImage, issueUntilError_load hs, issueUntilError_of_raise _ h]

theorem maskImage_of_empty (image : List (List Pixel)) (h : s = []) :
    maskImage p image s t b = (b.loaded s t, .error 0x04000000#32) :=
  maskImage_of_raise (e := .malformedSeed) hs image (checkSeedTap_of_empty h)

theorem maskImage_of_tap_beyond (image : List (List Pixel)) (h : s ≠ []) (ht : s.length ≤ t.toNat) :
    maskImage p image s t b = (b.loaded s t, .error (Stated.errWord 0x01 t.toNat)) := by
  rw [← responseWord_eq_errWord]
  exact maskImage_of_raise (e := .invalidTap) hs image (checkSeedTap_of_le (b := b.loaded s t) h ht)

theorem maskImage_of_legal (image : List (List Pixel)) (ht : t.toNat < s.length) :
    maskImage p image s t b =
      (b.loaded (trajectory s t.toNat (image.map List.length).sum) t, .ok (maskedRows p t.toNat s image)) := by
  have hschk : resultOf p .schk (b.loaded s t) = .respond (b.loaded s t) 0 := checkSeedTap_of_lt (b := b.loaded s t) ht
  have hready : issueUntilError p [.schk] (b.loaded s t) = (b.loaded s t, none) := issueUntilError_of_respond [] hschk
  simp only [maskImage, issueUntilError_load hs, hready, maskRows_of_legal (b := b.loaded s t) image ht]
  rfl

/-- MASK_IMAGE answers an image from a legal seed and tap only. -/
theorem legal_of_maskImage_ok {b' : Block} {image out : List (List Pixel)} (h : maskImage p image s t b = (b', .ok out)) :
    t.toNat < s.length := by
  by_contra ht
  by_cases hempty : s = []
  case pos => exact nomatch (maskImage_of_empty hs image hempty).symm.trans h
  case neg => exact nomatch (maskImage_of_tap_beyond hs image hempty (Nat.le_of_not_lt ht)).symm.trans h

end

/-- Settles O52: every row starts at S_(r·W), since the H rows of W pixels are H·W steps. -/
theorem imageMasksFollowTheTrajectory : Obligations.ImageMasksFollowTheTrajectory := by
  unfold Obligations.ImageMasksFollowTheTrajectory
  intro p b image width s t hs ht hw
  have hsum : (image.map List.length).sum = image.length * width := by
    rw [List.map_eq_replicate_iff.2 hw, List.sum_replicate_nat]
  refine ⟨_, ?_, maskedRows_map_length p t.toNat s image, fun r c px => maskedRows_pixel p t.toNat hw⟩
  rw [maskImage_of_legal hs image ht, hsum]
  rfl

/-- Settles O53: the second pass loads the same seed again, so each pixel meets the same byte twice. -/
theorem imageRoundTrips : Obligations.ImageRoundTrips := by
  unfold Obligations.ImageRoundTrips
  intro p b b' image out s t hs h
  have ht := legal_of_maskImage_ok hs h
  obtain ⟨-, ⟨⟩⟩ := Prod.mk.inj ((maskImage_of_legal hs image ht).symm.trans h)
  rw [maskImage_of_legal hs _ ht, maskedRows_maskedRows]

/-- Settles O54: by how the check ends, and MASKPX keeps the seed and tap legal. -/
theorem imageMaskingIsAllOrNothing : Obligations.ImageMaskingIsAllOrNothing := by
  unfold Obligations.ImageMaskingIsAllOrNothing
  refine ⟨fun p b image s t hs => ⟨maskImage_of_empty hs image, maskImage_of_tap_beyond hs image, ?legal⟩,
    fun _ _ pixels => codeField_maskpx_of_legal pixels⟩
  case legal =>
    intro ht
    rw [maskImage_of_legal hs image ht]
    exact ⟨_, rfl, maskedRows_map_length p t.toNat s image⟩

end Sys2Proof.Machine
end

section
/-! PROOFS. NOP and CLR (rules R190, R191), and the keystream store as CLR leaves it, missing until GEN or KCLR; obligations O8 and O9. -/

namespace Sys2Proof.Machine

/-- Settles O8: NOP has no check and no write. -/
theorem nopAnswersZero : Obligations.NopAnswersZero := by
  unfold Obligations.NopAnswersZero
  exact ⟨decode_encode .nop, fun _ => exec_of_result (i := .nop) rfl⟩

/-- A missing store stays missing until GEN or KCLR: CLR discards the store, and no other command writes KS_VALID (R24). -/
theorem Block.Write.ksValid_eq_false {p : Params} {b c : Block} {i : Instr} (h : b.Write p i c) (hkclr : i ≠ .kclr)
    (hgen : ∀ n, i ≠ .gen n) (hb : b.ksValid = false) : c.ksValid = false := by
  obtain rfl | hclr := eq_or_ne i .clr
  · cases h with
    | keep => exact hb
    | clr => rfl
  · exact (h.ksValid_eq hgen hkclr hclr).trans hb

/-- Settles O9: CLR has no check and its one write is the reset block; then XORC's check of the store, and the frame of KS_VALID. -/
theorem clrGivesTheResetState : Obligations.ClrGivesTheResetState := by
  unfold Obligations.ClrGivesTheResetState
  refine ⟨decode_encode .clr, ?clr, ?xorc, ?missing⟩
  case clr => exact fun _ => exec_of_result (i := .clr) rfl
  case xorc => exact fun _ => exec_of_store_missing (resultOf_xorc _ _)
  case missing => exact fun _ _ _ hkclr hgen hv h => (exec_write h).ksValid_eq_false hkclr hgen hv

end Sys2Proof.Machine
end

section
/-! PROOFS. A word answered with an error writes no state, and leaves nothing behind for the next word (rules R200, R209, R211); obligations
O26 and O27. -/

namespace Sys2Proof.Machine

theorem Result.codeField_respond (c : Block) (d : Imm) : codeField (Result.respond c d).word = 0x00 := codeField_responseWord _ _

/-- A result with a code other than 0 keeps the block (R209). -/
theorem Result.block_of_error {r : Result} (h : codeField r.word ≠ 0x00) (b : Block) : r.block b = b := by
  cases r with
  | respond c d => exact absurd (Result.codeField_respond c d) h
  | raise e d => rfl

/-- The response a step on a word delivers is its result's. -/
theorem step_command_response {s t : State} {w : CommandWord} {rest : List Input} {r : ResponseWord}
    (hs : s.pending = .command w :: rest) (ht : step s = .next t) (hr : t.responses = s.responses ++ [r]) :
    r = (resultOfWord Config.params w s.block).word := by
  obtain rfl := Host.Outcome.next.inj ((step_command hs).symm.trans ht)
  exact (List.append_singleton_inj.1 hr).2.symm

theorem step_of_error_response {s t : State} {w : CommandWord} {rest : List Input} {r : ResponseWord}
    (hs : s.pending = .command w :: rest) (ht : step s = .next t) (hr : t.responses = s.responses ++ [r])
    (hcode : codeField r ≠ 0x00) : t = { block := s.block, pending := rest, responses := s.responses ++ [r] } := by
  obtain rfl := step_command_response hs ht hr
  obtain rfl := Host.Outcome.next.inj ((step_command hs).symm.trans ht)
  rw [State.answer, Result.block_of_error hcode]

/-- Settles O26: an error's result keeps the block. -/
theorem errorsWriteNoState : Obligations.ErrorsWriteNoState := by
  unfold Obligations.ErrorsWriteNoState
  exact fun _ _ _ _ _ hs ht hr hcode => step_of_error_response hs ht hr hcode

/-- Settles O27: the next word meets the block that the failing word met, so both steps on it are one transaction. -/
theorem errorsAreNotLatched : Obligations.ErrorsAreNotLatched := by
  unfold Obligations.ErrorsAreNotLatched
  intro s t u w w' rest r hs ht hr hcode hu
  obtain rfl := step_of_error_response hs ht hr hcode
  obtain rfl := Host.Outcome.next.inj ((step_command_transact rfl).symm.trans hu)
  refine ⟨_, rfl, ?next⟩
  case next =>
    rw [step_command_transact rfl, List.append_assoc]
    rfl

end Sys2Proof.Machine
end

section
/-! PROOFS. The inversion of a command's errors: exactly which error each command raises, with which DATA, in the order of rule R210
(rules R201 to R210), and an error code in a response read back into it; obligations O28 to O33. -/

namespace Sys2Proof.Machine

/-- The commands behind the check of rule R203. -/
def UsesStore (i : Instr) : Prop := i = .xorc ∨ (∃ bit, i = .kpush bit) ∨ (∃ n, i = .krd n) ∨ i = .klen

/-- What a command raises from `b`: each error behind the checks that come before it in R210's order, and its DATA. -/
inductive Block.Raises (p : Params) (b : Block) : Instr → Error → Imm → Prop
  | emptySeed {i : Instr} (uses : Stated.usesSeedTap i) (empty : b.seed.length = 0) : Raises p b i .malformedSeed 0
  | tapBeyond {i : Instr} (uses : Stated.usesSeedTap i) (seed : 1 ≤ b.seed.length) (beyond : b.seed.length ≤ b.tap.toNat) :
      Raises p b i .invalidTap b.tap
  | noStore {i : Instr} (uses : UsesStore i) (missing : b.ksValid = false) : Raises p b i .keystreamNotFound 0
  | spush (bit : Bit) (full : b.seed.length = p.lmax) : Raises p b (.spush bit) .capacityExceeded (zext24 p.lmax)
  | kpush (bit : Bit) (store : b.ksValid = true) (full : b.ks.length = p.kmax) :
      Raises p b (.kpush bit) .capacityExceeded (zext24 p.kmax)
  | xpush (bit : Bit) (full : b.x.length = p.xmax) : Raises p b (.xpush bit) .capacityExceeded (zext24 p.xmax)
  | gen (n : Imm) (legal : b.tap.toNat < b.seed.length) (beyond : p.kmax < n.toNat) :
      Raises p b (.gen n) .capacityExceeded (zext24 p.kmax)
  | srd (n : Imm) (beyond : b.seed.length ≤ n.toNat) : Raises p b (.srd n) .indexOutOfRange (zext24 b.seed.length)
  | krd (n : Imm) (store : b.ksValid = true) (beyond : b.ks.length ≤ n.toNat) :
      Raises p b (.krd n) .indexOutOfRange (zext24 b.ks.length)
  | yrd (n : Imm) (beyond : b.y.length ≤ n.toNat) : Raises p b (.yrd n) .indexOutOfRange (zext24 b.y.length)

variable {p : Params} {b : Block} {i : Instr} {e : Error} {d : Imm}

/-- STEP, SCHK, GEN and MASKPX are the check of the seed and the tap, and then a result of their own. -/
theorem resultOf_of_usesSeedTap (p : Params) (b : Block) (hi : Stated.usesSeedTap i) :
    ∃ r, resultOf p i b = checkSeedTap b r :=
  match i, hi with
  | .step, _ | .schk, _ | .gen _, _ | .maskpx _ _ _, _ => ⟨_, rfl⟩

/-- XORC, KPUSH, KRD and KLEN are the check of the store, and then a result of their own. -/
theorem resultOf_of_usesStore (p : Params) (b : Block) (hi : UsesStore i) : ∃ r, resultOf p i b = checkStore b r := by
  obtain rfl | ⟨bit, rfl⟩ | ⟨n, rfl⟩ | rfl := hi <;> exact ⟨_, rfl⟩

/-- Every error of the relation is raised. -/
theorem Block.Raises.resultOf_eq (h : b.Raises p i e d) : resultOf p i b = .raise e d := by
  cases h with
  | emptySeed uses empty =>
    obtain ⟨r, hr⟩ := resultOf_of_usesSeedTap p b uses
    exact hr.trans (checkSeedTap_of_empty (List.length_eq_zero_iff.1 empty))
  | tapBeyond uses seed beyond =>
    obtain ⟨r, hr⟩ := resultOf_of_usesSeedTap p b uses
    exact hr.trans (checkSeedTap_of_le (List.ne_nil_of_length_pos seed) beyond)
  | noStore uses missing =>
    obtain ⟨r, hr⟩ := resultOf_of_usesStore p b uses
    exact hr.trans (checkStore_of_missing missing)
  | spush bit full | xpush bit full => exact pushBit_of_full full
  | kpush bit store full => exact (checkStore_of_valid store).trans (pushBit_of_full full)
  | gen n legal beyond => exact resultGen_of_over legal beyond
  | srd n beyond | yrd n beyond => exact readBit_of_le beyond
  | krd n store beyond => exact (checkStore_of_valid store).trans (readBit_of_le beyond)

/-! The converse, one lemma per shared operation. -/

theorem readBit_raises {q : Bits} {n : Imm} (h : readBit q n b = .raise e d)
    (hq : q.length ≤ n.toNat → b.Raises p i .indexOutOfRange (zext24 q.length)) : b.Raises p i e d := by
  obtain ⟨v, -, hr⟩ | ⟨hbeyond, hr⟩ := readBit_cases q n b <;> cases hr.symm.trans h
  exact hq hbeyond

theorem pushBit_raises {q : Bits} {cap : Nat} {c : Block} (h : pushBit q cap c = .raise e d)
    (hq : q.length = cap → b.Raises p i .capacityExceeded (zext24 cap)) : b.Raises p i e d := by
  obtain ⟨hfull, hr⟩ | ⟨-, hr⟩ := pushBit_cases q cap c <;> cases hr.symm.trans h
  exact hq hfull

theorem checkSeedTap_raises {r : Result} (hi : Stated.usesSeedTap i) (h : checkSeedTap b r = .raise e d)
    (hrest : b.tap.toNat < b.seed.length → r = .raise e d → b.Raises p i e d) : b.Raises p i e d := by
  obtain ⟨hempty, hr⟩ | ⟨hseed, hbeyond, hr⟩ | ⟨hlegal, hr⟩ := checkSeedTap_cases b r
  · cases hr.symm.trans h
    exact .emptySeed hi (List.length_eq_zero_iff.2 hempty)
  · cases hr.symm.trans h
    exact .tapBeyond hi (List.length_pos_iff.2 hseed) hbeyond
  · exact hrest hlegal (hr.symm.trans h)

theorem checkStore_raises {r : Result} (hi : UsesStore i) (h : checkStore b r = .raise e d)
    (hrest : b.ksValid = true → r = .raise e d → b.Raises p i e d) : b.Raises p i e d := by
  obtain ⟨hmissing, hr⟩ | ⟨hstore, hr⟩ := checkStore_cases b r
  · cases hr.symm.trans h
    exact .noStore hi hmissing
  · exact hrest hstore (hr.symm.trans h)

theorem resultGen_raises {n : Imm} (h : resultGen p n b = .raise e d) : b.Raises p (.gen n) e d := by
  refine checkSeedTap_raises trivial h fun hlegal hr => ?_
  split at hr <;> cases hr
  case isTrue hbeyond => exact .gen n hlegal hbeyond

/-- Every error a command raises is one of the relation. -/
theorem raises_of_resultOf (h : resultOf p i b = .raise e d) : b.Raises p i e d :=
  match i with
  | .nop | .clr | .sclr | .stap _ | .slen | .taprd | .kclr | .xclr | .ylen => nomatch h
  | .spush bit => pushBit_raises h (.spush bit)
  | .xpush bit => pushBit_raises h (.xpush bit)
  | .srd n => readBit_raises h (.srd n)
  | .yrd n => readBit_raises h (.yrd n)
  | .step | .schk | .maskpx _ _ _ => checkSeedTap_raises trivial h fun _ hr => nomatch hr
  | .gen _ => resultGen_raises h
  | .kpush bit => checkStore_raises (.inr (.inl ⟨bit, rfl⟩)) h fun hstore hr => pushBit_raises hr (.kpush bit hstore)
  | .krd n => checkStore_raises (.inr (.inr (.inl ⟨n, rfl⟩))) h fun hstore hr => readBit_raises hr (.krd n hstore)
  | .klen => checkStore_raises (.inr (.inr (.inr rfl))) h fun _ hr => nomatch hr
  | .xorc => checkStore_raises (.inl rfl) h fun _ hr => nomatch hr

theorem resultOf_eq_raise_iff : resultOf p i b = .raise e d ↔ b.Raises p i e d := ⟨raises_of_resultOf, Block.Raises.resultOf_eq⟩

/-! The response of a command, read back. -/

theorem Error.code_injective : Function.Injective Error.code := by
  intro e e' h
  cases e <;> cases e' <;> trivial

theorem Result.codeField_word_eq_code_iff {r : Result} : codeField r.word = e.code ↔ ∃ d, r = .raise e d := by
  cases r with
  | respond c d => simpa using e.code_ne_zero.symm
  | raise e' d => simp [Error.code_injective.eq_iff]

section
variable {s t : State} {r : ResponseWord} (h : exec i s = .next t) (hr : t.responses = s.responses ++ [r])
include h hr

/-- The response a command delivers is its result's. -/
theorem exec_response : r = (resultOf Config.params i s.block).word := by
  obtain rfl := exec_next_inv h
  exact (List.append_singleton_inj.1 hr).2.symm

/-- A command answers an error's code exactly when it raises the error. -/
theorem codeField_eq_code_iff : codeField r = e.code ↔ ∃ d, s.block.Raises Config.params i e d := by
  rw [exec_response h hr, Result.codeField_word_eq_code_iff]
  exact exists_congr fun d => resultOf_eq_raise_iff

/-- A response with an error's code carries in DATA what the error is raised with. -/
theorem raises_of_codeField (hcode : codeField r = e.code) :
    ∃ d, s.block.Raises Config.params i e d ∧ dataField r = d := by
  obtain ⟨d, hd⟩ := (codeField_eq_code_iff h hr).1 hcode
  refine ⟨d, hd, ?_⟩
  rw [exec_response h hr, hd.resultOf_eq, Result.word_raise, dataField_responseWord]

/-- A command that answers an error keeps the block (R209). -/
theorem exec_block_of_error (hcode : codeField r ≠ 0x00) : t.block = s.block := by
  obtain rfl := exec_response h hr
  rw [exec_next_inv h, State.answer_block, Result.block_of_error hcode]

end

end Sys2Proof.Machine
end

section
/-! PROOFS. InvalidTap and MalformedSeed (rules R202, R205); obligations O29 and O31. -/

namespace Sys2Proof.Machine

theorem exec_slen (s : State) :
    exec .slen s = .next (Stated.answered s s.block (Stated.okWord s.block.seed.length)) :=
  exec_of_result (i := .slen) rfl

/-- Settles O29: InvalidTap is raised in one way, with the tap; the block it keeps still has the width. -/
theorem invalidTapExactlyWhenTapReachesTheWidth : Obligations.InvalidTapExactlyWhenTapReachesTheWidth := by
  unfold Obligations.InvalidTapExactlyWhenTapReachesTheWidth
  intro i s t r h hr
  refine ⟨(codeField_eq_code_iff (e := .invalidTap) h hr).trans ⟨?raised, ?raises⟩, fun hcode => ⟨?data, ?width⟩⟩
  case raised =>
    rintro ⟨d, hd⟩
    cases hd with
    | tapBeyond uses seed beyond => exact ⟨uses, seed, beyond⟩
  case raises => exact fun ⟨uses, seed, beyond⟩ => ⟨_, .tapBeyond uses seed beyond⟩
  case data =>
    obtain ⟨d, hd, hdata⟩ := raises_of_codeField (e := .invalidTap) h hr hcode
    cases hd with
    | tapBeyond => exact hdata
  case width =>
    have hblock := exec_block_of_error h hr (by rw [hcode]; decide)
    rw [exec_slen, hblock]

/-- Settles O31: MalformedSeed is raised in one way, with 0. -/
theorem malformedSeedExactlyOnAnEmptySeed : Obligations.MalformedSeedExactlyOnAnEmptySeed := by
  unfold Obligations.MalformedSeedExactlyOnAnEmptySeed
  intro i s t r h hr
  refine ⟨(codeField_eq_code_iff (e := .malformedSeed) h hr).trans ⟨?raised, ?raises⟩, ?data⟩
  case raised =>
    rintro ⟨d, hd⟩
    cases hd with
    | emptySeed uses empty => exact ⟨uses, empty⟩
  case raises => exact fun ⟨uses, empty⟩ => ⟨_, .emptySeed uses empty⟩
  case data =>
    intro hcode
    obtain ⟨d, hd, hdata⟩ := raises_of_codeField (e := .malformedSeed) h hr hcode
    cases hd with
    | emptySeed => exact hdata

end Sys2Proof.Machine
end

section
/-! PROOFS. KeystreamNotFound, and how KS_VALID changes (rules R24, R203); obligation O30. -/

namespace Sys2Proof.Machine

/-- A command behind the check of rule R102 that responds passed the check. -/
theorem legal_of_checkSeedTap_respond {b c : Block} {r : Result} {d : Imm} (h : checkSeedTap b r = .respond c d) :
    b.tap.toNat < b.seed.length ∧ r = .respond c d := by
  obtain ⟨-, hr⟩ | ⟨-, -, hr⟩ | ⟨hlegal, hr⟩ := checkSeedTap_cases b r
  · cases hr.symm.trans h
  · cases hr.symm.trans h
  · exact ⟨hlegal, hr.symm.trans h⟩

/-- A GEN that responds creates the store (R131). -/
theorem ksValid_of_resultGen {p : Params} {n : Imm} {b c : Block} {d : Imm} (h : resultGen p n b = .respond c d) :
    c.ksValid = true := by
  obtain ⟨-, hr⟩ := legal_of_checkSeedTap_respond h
  split at hr <;> cases hr
  rfl

/-- Only CLR discards a store (R24). -/
theorem Block.Write.ksValid_eq_true {p : Params} {b c : Block} {i : Instr} (h : b.Write p i c) (hclr : i ≠ .clr)
    (hb : b.ksValid = true) : c.ksValid = true := by
  cases h with
  | clr => exact absurd rfl hclr
  | gen | kclr => rfl
  | keep | sclr | spush | stap | step | maskpx | kpush | xclr | xpush | xorc => exact hb

theorem Result.eq_respond_of_codeField {r : Result} (h : codeField r.word = 0x00) : ∃ c d, r = .respond c d := by
  cases r with
  | respond c d => exact ⟨c, d, rfl⟩
  | raise e d => exact absurd ((codeField_responseWord _ _).symm.trans h) e.code_ne_zero

/-- A store comes into being exactly when a GEN or KCLR succeeds (R24, R203). -/
theorem exec_ksValid_iff {i : Instr} {s t : State} {r : ResponseWord} (h : exec i s = .next t)
    (hr : t.responses = s.responses ++ [r]) (hv : s.block.ksValid = false) :
    t.block.ksValid = true ↔ codeField r = 0x00 ∧ ((∃ n, i = .gen n) ∨ i = .kclr) := by
  refine ⟨fun ht => ⟨?code, ?writer⟩, ?creates⟩
  case code =>
    by_contra hcode
    rw [exec_block_of_error h hr hcode, hv] at ht
    cases ht
  case writer =>
    by_contra hi
    push Not at hi
    rw [(exec_write h).ksValid_eq_false hi.2 hi.1 hv] at ht
    cases ht
  case creates =>
    rintro ⟨hcode, ⟨n, rfl⟩ | rfl⟩
    · rw [exec_response h hr] at hcode
      obtain ⟨c, d, hgen⟩ := Result.eq_respond_of_codeField hcode
      rw [exec_next_inv h, State.answer_block, hgen]
      exact ksValid_of_resultGen hgen
    · rw [exec_next_inv h]
      rfl

/-- Settles O30: KeystreamNotFound is raised in one way, with 0; then the writers of KS_VALID, and the reset state has no store. -/
theorem keystreamNotFoundExactlyWithoutAStore : Obligations.KeystreamNotFoundExactlyWithoutAStore := by
  unfold Obligations.KeystreamNotFoundExactlyWithoutAStore
  refine ⟨fun i s t r h hr => ⟨?code, ?data⟩, fun i s t r h hr hv => exec_ksValid_iff h hr hv,
    fun i s t h hv => ⟨?discarded, ?discards⟩, ?atReset⟩
  case code =>
    refine (codeField_eq_code_iff (e := .keystreamNotFound) h hr).trans ⟨?raised, ?raises⟩
    case raised =>
      rintro ⟨d, hd⟩
      cases hd with
      | noStore uses missing => exact ⟨uses, missing⟩
    case raises => exact fun ⟨uses, missing⟩ => ⟨_, .noStore uses missing⟩
  case data =>
    intro hcode
    obtain ⟨d, hd, hdata⟩ := raises_of_codeField (e := .keystreamNotFound) h hr hcode
    cases hd with
    | noStore => exact hdata
  case discarded =>
    intro ht
    by_contra hi
    rw [(exec_write h).ksValid_eq_true hi hv] at ht
    cases ht
  case discards =>
    rintro rfl
    rw [exec_next_inv h]
    rfl
  case atReset => exact ⟨_, exec_of_store_missing (resultOf_xorc _ _) rfl, rfl, rfl⟩

end Sys2Proof.Machine
end

section
/-! PROOFS. CapacityExceeded and IndexOutOfRange, whose DATA is a capacity or a length in full (rules R206, R208); obligations O32 and O33. -/

namespace Sys2Proof.Machine

/-- Settles O32: the four ways to raise CapacityExceeded, and every capacity fits DATA. -/
theorem capacityExceededExactlyAtACapacity : Obligations.CapacityExceededExactlyAtACapacity := by
  unfold Obligations.CapacityExceededExactlyAtACapacity
  intro i s t r h hr
  refine ⟨(codeField_eq_code_iff (e := .capacityExceeded) h hr).trans ⟨?raised, ?raises⟩, ?data⟩
  case raised =>
    rintro ⟨d, hd⟩
    cases hd with
    | spush bit full => exact .inl ⟨⟨bit, rfl⟩, full⟩
    | kpush bit store full => exact .inr (.inl ⟨⟨bit, rfl⟩, store, full⟩)
    | xpush bit full => exact .inr (.inr (.inl ⟨⟨bit, rfl⟩, full⟩))
    | gen n legal beyond => exact .inr (.inr (.inr ⟨n, rfl, legal, beyond⟩))
  case raises =>
    rintro (⟨⟨bit, rfl⟩, full⟩ | ⟨⟨bit, rfl⟩, store, full⟩ | ⟨⟨bit, rfl⟩, full⟩ | ⟨n, rfl, legal, beyond⟩)
    · exact ⟨_, .spush bit full⟩
    · exact ⟨_, .kpush bit store full⟩
    · exact ⟨_, .xpush bit full⟩
    · exact ⟨_, .gen n legal beyond⟩
  case data =>
    intro hcode
    obtain ⟨d, hd, hdata⟩ := raises_of_codeField (e := .capacityExceeded) h hr hcode
    rw [hdata]
    cases hd with
    | spush => simp [zext24_toNat params_lmax_lt]
    | kpush | gen => simp [zext24_toNat params_kmax_lt]
    | xpush => simp [zext24_toNat params_xmax_lt]

/-- Settles O33: the three ways to raise IndexOutOfRange, and the invariant's bounds on the lengths. -/
theorem indexOutOfRangeExactlyBeyondTheLength : Obligations.IndexOutOfRangeExactlyBeyondTheLength := by
  unfold Obligations.IndexOutOfRangeExactlyBeyondTheLength
  intro i s t r h hr
  refine ⟨(codeField_eq_code_iff (e := .indexOutOfRange) h hr).trans ⟨?raised, ?raises⟩, ?data⟩
  case raised =>
    rintro ⟨d, hd⟩
    cases hd with
    | srd n beyond => exact .inl ⟨n, rfl, beyond⟩
    | krd n store beyond => exact .inr (.inl ⟨n, rfl, store, beyond⟩)
    | yrd n beyond => exact .inr (.inr ⟨n, rfl, beyond⟩)
  case raises =>
    rintro (⟨n, rfl, beyond⟩ | ⟨n, rfl, store, beyond⟩ | ⟨n, rfl, beyond⟩)
    · exact ⟨_, .srd n beyond⟩
    · exact ⟨_, .krd n store beyond⟩
    · exact ⟨_, .yrd n beyond⟩
  case data =>
    intro hcode hinv
    obtain ⟨hseed, hks, -, hy⟩ := State.Inv.lengths_lt hinv
    obtain ⟨d, hd, hdata⟩ := raises_of_codeField (e := .indexOutOfRange) h hr hcode
    rw [hdata]
    cases hd with
    | srd => simp [zext24_toNat hseed]
    | krd => simp [zext24_toNat hks]
    | yrd => simp [zext24_toNat hy]

end Sys2Proof.Machine
end

section
/-! PROOFS. The order of the errors (rule R210): the checks of the seed, the tap and the store come before a command's own error, and
every other command has one error at most; obligation O28. -/

namespace Sys2Proof.Machine

/-- The check of the seed and the tap comes first, whichever of the four commands stands behind it. -/
theorem exec_of_usesSeedTap {i : Instr} (s : State) (hi : Stated.usesSeedTap i) :
    (s.block.seed = [] → exec i s = .next (Stated.answered s s.block 0x04000000#32)) ∧
    (s.block.seed ≠ [] → s.block.seed.length ≤ s.block.tap.toNat →
      exec i s = .next (Stated.answered s s.block (Stated.errWord 0x01 s.block.tap.toNat))) := by
  obtain ⟨r, hr⟩ := resultOf_of_usesSeedTap Config.params s.block hi
  exact ⟨exec_of_seed_empty hr, exec_of_tap_beyond hr⟩

/-- GEN's own check of KMAX, behind the check of the seed and the tap. -/
theorem exec_gen_response {s : State} (n : Imm) (ht : s.block.tap.toNat < s.block.seed.length) :
    ∃ t, exec (.gen n) s = .next t ∧ t.responses = s.responses ++
      [if Config.params.kmax < n.toNat then Stated.errWord 0x05 Config.params.kmax else 0x00000000#32] := by
  split
  case isTrue hn => exact ⟨_, exec_gen_of_over ht hn, rfl⟩
  case isFalse hn => exact ⟨_, exec_gen_of_fits ht (Nat.le_of_not_lt hn), rfl⟩

/-- The only error of a command with one check (R203, R206, R208). A command without a check has none, and any error stands here for it. -/
def soleError : Instr → Error
  | .spush _ | .xpush _ => .capacityExceeded
  | .srd _ | .yrd _ => .indexOutOfRange
  | _ => .keystreamNotFound

theorem Block.Raises.eq_soleError {p : Params} {b : Block} {i : Instr} {e : Error} {d : Imm} (h : b.Raises p i e d)
    (hi : ¬ Stated.usesSeedTap i) (hkpush : ∀ bit, i ≠ .kpush bit) (hkrd : ∀ n, i ≠ .krd n) : e = soleError i := by
  cases h with
  | emptySeed uses | tapBeyond uses => exact absurd uses hi
  | gen => exact absurd trivial hi
  | noStore uses =>
    obtain rfl | ⟨bit, rfl⟩ | ⟨n, rfl⟩ | rfl := uses
    · rfl
    · exact absurd rfl (hkpush bit)
    · exact absurd rfl (hkrd n)
    · rfl
  | kpush bit => exact absurd rfl (hkpush bit)
  | krd n => exact absurd rfl (hkrd n)
  | spush | xpush | srd | yrd => rfl

theorem codeField_eq_zero_or_soleError {i : Instr} (b : Block) (hi : ¬ Stated.usesSeedTap i)
    (hkpush : ∀ bit, i ≠ .kpush bit) (hkrd : ∀ n, i ≠ .krd n) :
    codeField (resultOf Config.params i b).word = 0x00 ∨
      codeField (resultOf Config.params i b).word = (soleError i).code := by
  cases h : resultOf Config.params i b with
  | respond c d => exact .inl (Result.codeField_respond c d)
  | raise e d =>
    obtain rfl := (raises_of_resultOf h).eq_soleError hi hkpush hkrd
    exact .inr (codeField_responseWord _ _)

/-- Settles O28: each check in its place, and one error at most where a command has one check at most. -/
theorem firstErrorInOrderIsReported : Obligations.FirstErrorInOrderIsReported := by
  unfold Obligations.FirstErrorInOrderIsReported
  refine ⟨?illegal, ?seedTap, ?gen, ?noStore, ?store, ?others⟩
  case illegal => exact fun _ _ _ _ hs hw => step_command_error hs hw
  case seedTap => exact fun _ s hi => exec_of_usesSeedTap s hi
  case gen => exact fun n _ ht => exec_gen_response n ht
  case noStore =>
    exact fun b n _ hv => ⟨exec_of_store_missing (i := .kpush b) rfl hv, exec_of_store_missing (i := .krd n) rfl hv⟩
  case store => exact fun b _ _ hv => ⟨exec_kpush_of_full b hv, exec_krd_of_le hv⟩
  case others =>
    exact fun i hi hkpush hkrd => ⟨(soleError i).code,
      fun s => ⟨_, _, exec_eq_answer i s, rfl, codeField_eq_zero_or_soleError s.block hi hkpush hkrd⟩⟩

end Sys2Proof.Machine
end

section
/-! PROOFS. The host's conversions and its own errors (rules R63, R216); obligation O56. -/

namespace Sys2Proof.Machine

theorem bitsOfText?_textOfBits (s : Bits) : bitsOfText? (textOfBits s) = some s := by
  induction s with
  | nil => rfl
  | cons b s ih =>
    rw [textOfBits] at ih
    cases b <;> simp [textOfBits, bitsOfText?, ih]

/-- A text with another character than '0' and '1' denotes no bits. -/
theorem bitsOfText?_eq_none {text : List Char} (h : ∃ c ∈ text, c ≠ '0' ∧ c ≠ '1') : bitsOfText? text = none := by
  fun_induction bitsOfText? text with
  | case1 => simp at h
  | case2 rest ih => simp [ih (by simpa using h)]
  | case3 rest ih => simp [ih (by simpa using h)]
  | case4 => rfl

theorem seedOfText_textOfBits {s : Bits} (h : s ≠ []) : seedOfText (textOfBits s) = .ok s := by
  rw [seedOfText, bitsOfText?_textOfBits]
  cases s with
  | nil => exact absurd rfl h
  | cons b s => rfl

theorem inputOfText_textOfBits (x : Bits) : inputOfText (textOfBits x) = .ok x := by
  rw [inputOfText, bitsOfText?_textOfBits]

theorem seedOfText_error {text : List Char} (h : text = [] ∨ ∃ c ∈ text, c ≠ '0' ∧ c ≠ '1') :
    seedOfText text = .error .malformedSeed := by
  obtain rfl | h := h
  · rfl
  · rw [seedOfText, bitsOfText?_eq_none h]

theorem inputOfText_error {text : List Char} (h : ∃ c ∈ text, c ≠ '0' ∧ c ≠ '1') :
    inputOfText text = .error .malformedBitString := by
  rw [inputOfText, bitsOfText?_eq_none h]

theorem tapOfInt_error {t : Int} (h : t < 0 ∨ 2 ^ 24 ≤ t) : tapOfInt t = .error .invalidTap := by
  rw [tapOfInt]
  split
  case isTrue => rfl
  case isFalse hneg => rw [if_pos (h.resolve_left hneg)]

/-- Every 24-bit tap lies between 0 and 2^24. -/
theorem tapOfInt_toNat (u : Imm) : tapOfInt u.toNat = .ok u := by
  have hneg : ¬ (u.toNat : Int) < 0 := Int.not_lt.2 (Int.natCast_nonneg _)
  have hbig : ¬ (2 : Int) ^ 24 ≤ u.toNat := by
    have := u.isLt
    omega
  rw [tapOfInt, if_neg hneg, if_neg hbig, Int.toNat_natCast, BitVec.ofNat_toNat, BitVec.setWidth_eq]

/-- Settles O56, conversion by conversion. -/
theorem hostConversionsAndErrors : Obligations.HostConversionsAndErrors := by
  unfold Obligations.HostConversionsAndErrors
  exact ⟨fun _ => seedOfText_textOfBits, inputOfText_textOfBits, fun _ => seedOfText_error, fun _ => inputOfText_error,
    fun _ => tapOfInt_error, tapOfInt_toNat, fun _ => rfl⟩

end Sys2Proof.Machine
end
